-- ==== Sys2Proof/Word.lean ====
section
/-! DEFINITION. The word types of the machine: the byte of a register, of a timer and of a memory cell (`XLEN`,
`TIMER_WIDTH`, rules R6, R10, R15, R30) and the 16-bit word of `I`, `PC`, a stack slot and an instruction (`I_WIDTH`,
`PC_WIDTH`, `ILEN`, rules R6, R12 to R14, R50). Every value is unsigned (R8). -/

namespace Sys2Proof

/-- An unsigned 8-bit value (R8, R10). -/
abbrev Byte := BitVec 8

/-- An unsigned 16-bit value (R8, R12, R13, R50). -/
abbrev Word := BitVec 16

/-- An address operand `nnn`, the low 12 bits of an instruction word (R51). -/
abbrev Addr12 := BitVec 12

end Sys2Proof
end

