-- ==== Sys2Proof/Syntax.lean ====
section
/-! DEFINITION. The 34 instructions (rule R56), one constructor per row of `spec/opcode_table.json`, in the table's
order. Operands carry the range of their field in their type (R51: `x`, `y`, `n` are 4 bits, `kk` 8, `nnn` 12), so no
ill-formed operand can be written (log 10). -/

namespace Sys2Proof

/-- A register number, 0 for V0 to 15 for VF (R10). -/
abbrev Reg := Fin 16

/-- The register VF, which is also the flag (R11). -/
abbrev VF : Reg := 15

/-- The instructions, named after their mnemonics in rule R56. -/
inductive Instr where
  /-- `CLS` 00E0, Clear display (R104). -/
  | cls
  /-- `RET` 00EE, Return (R70). -/
  | ret
  /-- `JP nnn` 1nnn, Jump (R71). -/
  | jp (nnn : Addr12)
  /-- `CALL nnn` 2nnn, Call (R72). -/
  | call (nnn : Addr12)
  /-- `SE Vx, kk` 3xkk, Skip-if-equal (R73). -/
  | seImm (x : Reg) (kk : Byte)
  /-- `SNE Vx, kk` 4xkk, Skip-if-not-equal (R74). -/
  | sneImm (x : Reg) (kk : Byte)
  /-- `SE Vx, Vy` 5xy0, Skip-if-equal (R75). -/
  | seReg (x y : Reg)
  /-- `LD Vx, kk` 6xkk, Load immediate (R80). -/
  | ldImm (x : Reg) (kk : Byte)
  /-- `ADD Vx, kk` 7xkk, Add immediate (R81). -/
  | addImm (x : Reg) (kk : Byte)
  /-- `LD Vx, Vy` 8xy0, copy VY (R83). -/
  | ldReg (x y : Reg)
  /-- `OR Vx, Vy` 8xy1 (R84). -/
  | orReg (x y : Reg)
  /-- `AND Vx, Vy` 8xy2 (R85). -/
  | andReg (x y : Reg)
  /-- `XOR Vx, Vy` 8xy3 (R86). -/
  | xorReg (x y : Reg)
  /-- `ADD Vx, Vy` 8xy4, add-with-carry (R87). -/
  | addReg (x y : Reg)
  /-- `SUB Vx, Vy` 8xy5, subtract-with-borrow (R88). -/
  | sub (x y : Reg)
  /-- `SHR Vx, Vy` 8xy6, shift-right (R89). -/
  | shr (x y : Reg)
  /-- `SUBN Vx, Vy` 8xy7, reverse-subtract-with-borrow (R90). -/
  | subn (x y : Reg)
  /-- `SHL Vx, Vy` 8xyE, shift-left (R91). -/
  | shl (x y : Reg)
  /-- `SNE Vx, Vy` 9xy0, Skip-if-not-equal (R76). -/
  | sneReg (x y : Reg)
  /-- `LD I, nnn` Annn, Set index register (R96). -/
  | ldI (nnn : Addr12)
  /-- `JP V0, nnn` Bnnn, Jump with offset (R78). -/
  | jpV0 (nnn : Addr12)
  /-- `RND Vx, kk` Cxkk, Random (R93). -/
  | rnd (x : Reg) (kk : Byte)
  /-- `DRW Vx, Vy, n` Dxyn, Draw sprite of `n` rows (R105). -/
  | drw (x y : Reg) (n : Fin 16)
  /-- `SKP Vx` Ex9E, Skip-if-key-pressed (R108). -/
  | skp (x : Reg)
  /-- `SKNP Vx` ExA1, Skip-if-key-not-pressed (R109). -/
  | sknp (x : Reg)
  /-- `LD Vx, DT` Fx07, Get delay timer (R110). -/
  | ldVxDt (x : Reg)
  /-- `LD Vx, K` Fx0A, Wait for key (R111). -/
  | ldVxK (x : Reg)
  /-- `LD DT, Vx` Fx15, Set delay timer (R112). -/
  | ldDtVx (x : Reg)
  /-- `LD ST, Vx` Fx18, Set sound timer (R113). -/
  | ldStVx (x : Reg)
  /-- `ADD I, Vx` Fx1E, Add to index register (R97). -/
  | addI (x : Reg)
  /-- `LD F, Vx` Fx29, Font address (R98). -/
  | ldF (x : Reg)
  /-- `LD B, Vx` Fx33, Store BCD (R99). -/
  | ldB (x : Reg)
  /-- `LD [I], Vx` Fx55, Block store of V0 to Vx (R100). -/
  | stBlock (x : Reg)
  /-- `LD Vx, [I]` Fx65, Block load of V0 to Vx (R101). -/
  | ldBlock (x : Reg)
  deriving DecidableEq, Repr

end Sys2Proof
end

