-- ==== Sys2Proof/Decode.lean ====
section
/-! DEFINITION. The decoder (rules R50 to R59) and, after it, the encoder written from the same map (R56).
The opcode numerals are the spec's decision D1 (log 1); all selector bits are compared (D2, R55). -/

namespace Sys2Proof

/-- Field `class`, bits 15:12 (R51). -/
def fieldClass (w : Word) : Nat := (w.extractLsb' 12 4).toNat

/-- Field `x`, bits 11:8 (R51). -/
def fieldX (w : Word) : Reg := (w.extractLsb' 8 4).toFin

/-- Field `y`, bits 7:4 (R51). -/
def fieldY (w : Word) : Reg := (w.extractLsb' 4 4).toFin

/-- Field `n`, bits 3:0 (R51). -/
def fieldN (w : Word) : Fin 16 := (w.extractLsb' 0 4).toFin

/-- Field `kk`, bits 7:0 (R51). -/
def fieldKk (w : Word) : Byte := w.extractLsb' 0 8

/-- Field `nnn`, bits 11:0 (R51). -/
def fieldNnn (w : Word) : Addr12 := w.extractLsb' 0 12

/-- Why bytes are not an instruction. -/
inductive DecodeError where
  /-- Fewer than the two bytes of an instruction word (R50). -/
  | truncated
  /-- A word that matches no row of the opcode map (R57). -/
  | illegal (word : Word)
  deriving DecidableEq, Repr

/-- Class 0: the whole low 12 bits select (R55). -/
def decodeClass0 (w : Word) : Except DecodeError Instr :=
  match (fieldNnn w).toNat with
  | 0x0E0 => .ok .cls
  | 0x0EE => .ok .ret
  | _ => .error (.illegal w)

/-- Class 8: the ALU group, selected by `n` (R55, R82). -/
def decodeClass8 (w : Word) : Except DecodeError Instr :=
  match (fieldN w).val with
  | 0x0 => .ok (.ldReg (fieldX w) (fieldY w))
  | 0x1 => .ok (.orReg (fieldX w) (fieldY w))
  | 0x2 => .ok (.andReg (fieldX w) (fieldY w))
  | 0x3 => .ok (.xorReg (fieldX w) (fieldY w))
  | 0x4 => .ok (.addReg (fieldX w) (fieldY w))
  | 0x5 => .ok (.sub (fieldX w) (fieldY w))
  | 0x6 => .ok (.shr (fieldX w) (fieldY w))
  | 0x7 => .ok (.subn (fieldX w) (fieldY w))
  | 0xE => .ok (.shl (fieldX w) (fieldY w))
  | _ => .error (.illegal w)

/-- Class E: the key skips, selected by `kk` (R55). -/
def decodeClassE (w : Word) : Except DecodeError Instr :=
  match (fieldKk w).toNat with
  | 0x9E => .ok (.skp (fieldX w))
  | 0xA1 => .ok (.sknp (fieldX w))
  | _ => .error (.illegal w)

/-- Class F, selected by `kk` (R55). -/
def decodeClassF (w : Word) : Except DecodeError Instr :=
  match (fieldKk w).toNat with
  | 0x07 => .ok (.ldVxDt (fieldX w))
  | 0x0A => .ok (.ldVxK (fieldX w))
  | 0x15 => .ok (.ldDtVx (fieldX w))
  | 0x18 => .ok (.ldStVx (fieldX w))
  | 0x1E => .ok (.addI (fieldX w))
  | 0x29 => .ok (.ldF (fieldX w))
  | 0x33 => .ok (.ldB (fieldX w))
  | 0x55 => .ok (.stBlock (fieldX w))
  | 0x65 => .ok (.ldBlock (fieldX w))
  | _ => .error (.illegal w)

/-- `Decode(wx)` of rule R59: total, an instruction or the illegal word by name (R57). -/
def decodeWord (w : Word) : Except DecodeError Instr :=
  match fieldClass w with
  | 0x0 => decodeClass0 w
  | 0x1 => .ok (.jp (fieldNnn w))
  | 0x2 => .ok (.call (fieldNnn w))
  | 0x3 => .ok (.seImm (fieldX w) (fieldKk w))
  | 0x4 => .ok (.sneImm (fieldX w) (fieldKk w))
  | 0x5 => if (fieldN w).val = 0 then .ok (.seReg (fieldX w) (fieldY w)) else .error (.illegal w)
  | 0x6 => .ok (.ldImm (fieldX w) (fieldKk w))
  | 0x7 => .ok (.addImm (fieldX w) (fieldKk w))
  | 0x8 => decodeClass8 w
  | 0x9 => if (fieldN w).val = 0 then .ok (.sneReg (fieldX w) (fieldY w)) else .error (.illegal w)
  | 0xA => .ok (.ldI (fieldNnn w))
  | 0xB => .ok (.jpV0 (fieldNnn w))
  | 0xC => .ok (.rnd (fieldX w) (fieldKk w))
  | 0xD => .ok (.drw (fieldX w) (fieldY w) (fieldN w))
  | 0xE => decodeClassE w
  | 0xF => decodeClassF w
  | _ => .error (.illegal w)

/-- Two bytes as a word, the byte at the lower address in bits 15:8 (R35). -/
def wordOfBytes (hi lo : Byte) : Word := hi ++ lo

/-- The decoder on bytes in address order: the instruction and the bytes after it (R35, R50). -/
def decodeBytes : List Byte → Except DecodeError (Instr × List Byte)
  | hi :: lo :: rest =>
    match decodeWord (wordOfBytes hi lo) with
    | .ok i => .ok (i, rest)
    | .error e => .error e
  | _ => .error .truncated

/-- The high byte of a word, bits 15:8, which memory holds at the lower address (R35). -/
def highByte (w : Word) : Byte := w.extractLsb' 8 8

/-- The low byte of a word, bits 7:0, which memory holds at the higher address (R35). -/
def lowByte (w : Word) : Byte := w.extractLsb' 0 8

/-- The word that `nbits` bits of a table row stand for: bits at and above `nbits` are 0. -/
def tableWord (nbits w : Nat) : Word := BitVec.ofNat 16 (w % 2 ^ nbits)

/-- The instruction the decoder reads from the bytes of a word numbered as `spec/opcode_table.json` numbers it. -/
def decodeTableWord (nbits w : Nat) : Option Instr :=
  match decodeBytes [highByte (tableWord nbits w), lowByte (tableWord nbits w)] with
  | .ok (i, _) => some i
  | .error _ => none

/-- A word of format NNN: `class`, `nnn` (R53). -/
def formNnn (cls : Nat) (nnn : Addr12) : Word := BitVec.ofNat 16 (cls * 4096 + nnn.toNat)

/-- A word of format XKK, and of format X with its selector as `kk`: `class`, `x`, `kk` (R53). -/
def formXkk (cls : Nat) (x : Reg) (kk : Byte) : Word := BitVec.ofNat 16 (cls * 4096 + x.val * 256 + kk.toNat)

/-- A word of format XYN, and of format XY with its selector as `n`: `class`, `x`, `y`, `n` (R53). -/
def formXyn (cls : Nat) (x y : Reg) (n : Fin 16) : Word :=
  BitVec.ofNat 16 (cls * 4096 + x.val * 256 + y.val * 16 + n.val)

/-- The word of an instruction (R56). -/
def encode : Instr → Word
  | .cls => 0x00E0
  | .ret => 0x00EE
  | .jp nnn => formNnn 0x1 nnn
  | .call nnn => formNnn 0x2 nnn
  | .seImm x kk => formXkk 0x3 x kk
  | .sneImm x kk => formXkk 0x4 x kk
  | .seReg x y => formXyn 0x5 x y 0x0
  | .ldImm x kk => formXkk 0x6 x kk
  | .addImm x kk => formXkk 0x7 x kk
  | .ldReg x y => formXyn 0x8 x y 0x0
  | .orReg x y => formXyn 0x8 x y 0x1
  | .andReg x y => formXyn 0x8 x y 0x2
  | .xorReg x y => formXyn 0x8 x y 0x3
  | .addReg x y => formXyn 0x8 x y 0x4
  | .sub x y => formXyn 0x8 x y 0x5
  | .shr x y => formXyn 0x8 x y 0x6
  | .subn x y => formXyn 0x8 x y 0x7
  | .shl x y => formXyn 0x8 x y 0xE
  | .sneReg x y => formXyn 0x9 x y 0x0
  | .ldI nnn => formNnn 0xA nnn
  | .jpV0 nnn => formNnn 0xB nnn
  | .rnd x kk => formXkk 0xC x kk
  | .drw x y n => formXyn 0xD x y n
  | .skp x => formXkk 0xE x 0x9E
  | .sknp x => formXkk 0xE x 0xA1
  | .ldVxDt x => formXkk 0xF x 0x07
  | .ldVxK x => formXkk 0xF x 0x0A
  | .ldDtVx x => formXkk 0xF x 0x15
  | .ldStVx x => formXkk 0xF x 0x18
  | .addI x => formXkk 0xF x 0x1E
  | .ldF x => formXkk 0xF x 0x29
  | .ldB x => formXkk 0xF x 0x33
  | .stBlock x => formXkk 0xF x 0x55
  | .ldBlock x => formXkk 0xF x 0x65

/-- The two bytes of an instruction in address order (R35). -/
def encodeBytes (i : Instr) : List Byte := [highByte (encode i), lowByte (encode i)]

/-- The `match` and `mask` of the instruction's row in rule R56: a word is that row's exactly when
`word AND mask = match`. -/
def Instr.opcodeRow : Instr → Word × Word
  | .cls => (0x00E0, 0xFFFF)
  | .ret => (0x00EE, 0xFFFF)
  | .jp _ => (0x1000, 0xF000)
  | .call _ => (0x2000, 0xF000)
  | .seImm _ _ => (0x3000, 0xF000)
  | .sneImm _ _ => (0x4000, 0xF000)
  | .seReg _ _ => (0x5000, 0xF00F)
  | .ldImm _ _ => (0x6000, 0xF000)
  | .addImm _ _ => (0x7000, 0xF000)
  | .ldReg _ _ => (0x8000, 0xF00F)
  | .orReg _ _ => (0x8001, 0xF00F)
  | .andReg _ _ => (0x8002, 0xF00F)
  | .xorReg _ _ => (0x8003, 0xF00F)
  | .addReg _ _ => (0x8004, 0xF00F)
  | .sub _ _ => (0x8005, 0xF00F)
  | .shr _ _ => (0x8006, 0xF00F)
  | .subn _ _ => (0x8007, 0xF00F)
  | .shl _ _ => (0x800E, 0xF00F)
  | .sneReg _ _ => (0x9000, 0xF00F)
  | .ldI _ => (0xA000, 0xF000)
  | .jpV0 _ => (0xB000, 0xF000)
  | .rnd _ _ => (0xC000, 0xF000)
  | .drw _ _ _ => (0xD000, 0xF000)
  | .skp _ => (0xE09E, 0xF0FF)
  | .sknp _ => (0xE0A1, 0xF0FF)
  | .ldVxDt _ => (0xF007, 0xF0FF)
  | .ldVxK _ => (0xF00A, 0xF0FF)
  | .ldDtVx _ => (0xF015, 0xF0FF)
  | .ldStVx _ => (0xF018, 0xF0FF)
  | .addI _ => (0xF01E, 0xF0FF)
  | .ldF _ => (0xF029, 0xF0FF)
  | .ldB _ => (0xF033, 0xF0FF)
  | .stBlock _ => (0xF055, 0xF0FF)
  | .ldBlock _ => (0xF065, 0xF0FF)

end Sys2Proof
end

