-- ==== Sys2Proof/Config.lean ====
section
/-! DEFINITION. What is fixed for the machine (the parameters of rule R6), the font table (R34) and the one free value
(the random byte of R93). -/

namespace Sys2Proof.Config

/-- `MEM_SIZE`: addresses 0 to 4095 (R6, R30). -/
abbrev memSize : Nat := 4096

/-- `SP_MAX`: the largest legal stack pointer (R6, R14, C1). -/
abbrev spMax : Fin 16 := 15

/-- `PROG_BASE`: load address of a program and reset value of PC (R6, R22, R141). -/
abbrev progBase : Nat := 0x200

/-- `ROM_MAX`: the largest program in bytes (R6, R141). -/
abbrev romMax : Nat := 3584

/-- `GLYPH_BYTES`: bytes of one glyph (R6, R98). -/
abbrev glyphBytes : Nat := 5

/-- The size of the font region at address 0, 16 glyphs of 5 bytes (R6, R31). -/
abbrev fontSize : Nat := 80

/-- `FB_W`: framebuffer columns (R6, R17). -/
abbrev fbWidth : Nat := 64

/-- `FB_H`: framebuffer rows (R6, R17). -/
abbrev fbHeight : Nat := 32

/-- `FONT`: the default table of rule R34, one glyph a line, digit 0 first.
UNVERIFIED (the spec takes it from general knowledge, decision D16; log 2), unsafe for a claim about glyph shapes. -/
def font : List Byte :=
  [0xF0, 0x90, 0x90, 0x90, 0xF0] ++
  [0x20, 0x60, 0x20, 0x20, 0x70] ++
  [0xF0, 0x10, 0xF0, 0x80, 0xF0] ++
  [0xF0, 0x10, 0xF0, 0x10, 0xF0] ++
  [0x90, 0x90, 0xF0, 0x10, 0x10] ++
  [0xF0, 0x80, 0xF0, 0x10, 0xF0] ++
  [0xF0, 0x80, 0xF0, 0x90, 0xF0] ++
  [0xF0, 0x10, 0x20, 0x40, 0x40] ++
  [0xF0, 0x90, 0xF0, 0x90, 0xF0] ++
  [0xF0, 0x90, 0xF0, 0x10, 0xF0] ++
  [0xF0, 0x90, 0xF0, 0x90, 0x90] ++
  [0xE0, 0x90, 0xE0, 0x90, 0xE0] ++
  [0xF0, 0x80, 0x80, 0x80, 0xF0] ++
  [0xE0, 0x90, 0x90, 0x90, 0xE0] ++
  [0xF0, 0x80, 0xF0, 0x80, 0xF0] ++
  [0xF0, 0x80, 0xF0, 0x80, 0x80]

/-- The random byte of the cycle with index `k` where the host's own input is not given: a FREE VALUE. Nothing
constrains it (R7, R93: "a free draw, any of 0..255, under no law"; log 5). Safe: every claim holds for every draw. -/
opaque rnd : Nat → Byte

end Sys2Proof.Config
end

