-- ==== Sys2Proof/Machine/State.lean ====
section
/-! DEFINITION. The state of the machine (rules R10 to R20), the reasons a cycle can stop (R120), and the state after
Initialize (R22, R140). Plain data only. -/

namespace Sys2Proof.Machine

/-- The memory's content as the cells that differ from what an unlisted address reads as (`Memory.unlisted`, Machine/Ops.lean),
addresses strictly rising (log 3). -/
abbrev Memory := List Host.Cell

/-- The framebuffer, row-major: 32 rows (`y`, from the top) of 64 cells (`x`, from the left) (R17; log 13). -/
abbrev Framebuffer := Vector (Vector Bool 64) 32

/-- The two inputs of one cycle (R7, R24, R131): whether it ends with a timer step, and the random byte. -/
structure CycleInput where
  /-- The cycle ends with a timer step (R127). -/
  tick : Bool
  /-- The byte the Random instruction reads (R93). -/
  rnd : Byte
  deriving DecidableEq, Repr

/-- Everything the core remembers between two cycles (R20), and the model's own `inputs` and `cycles`. -/
structure State where
  /-- `V[0]` to `V[15]`; `V[15]` is VF (R10, R11). -/
  v : Vector Byte 16
  /-- The index register `I` (R12). -/
  i : Word
  /-- The program counter (R13). -/
  pc : Word
  /-- The stack pointer: how many calls are pending, the index of the next free slot (R14; log 9). -/
  sp : Fin 16
  /-- `STACK[0]` to `STACK[15]`, outside memory (R14). -/
  stack : Vector Word 16
  /-- The delay timer `DT` (R15). -/
  dt : Byte
  /-- The sound timer `ST` (R15). -/
  st : Byte
  /-- The keypad flags `KEY[0]` to `KEY[15]`, latched presses (R16). -/
  key : Vector Bool 16
  /-- The framebuffer `FB` (R17). -/
  fb : Framebuffer
  /-- The changed flag `CH` (R18). -/
  ch : Bool
  /-- `Mem[0]` to `Mem[4095]` (R19, R30). -/
  mem : Memory
  /-- MODEL'S OWN, not hardware state: the inputs the host will give the coming cycles, oldest first (R7; log 5, log 6). -/
  inputs : List CycleInput
  /-- MODEL'S OWN, not hardware state: how many cycles have succeeded, the index of the next free draw of `Config.rnd` (log 5). -/
  cycles : Nat
  deriving DecidableEq, Repr

/-- The seven faults of a cycle (R120), each with its `info`. A fault changes no state (R121): the state after it is the
state before the cycle, and it is no end of the machine (R124; log 4). Each is the spec's own behaviour, so safe. -/
inductive Fault where
  /-- Code 1, raised by the fetch of any cycle when `PC + 1 > 4095` (R36); `info` is PC. Safe. -/
  | fetchOutOfRange (pc : Word)
  /-- Code 2, raised by decode when the word matches no instruction (R57); `info` is the word. Safe. -/
  | illegalInstruction (word : Word)
  /-- Code 3, raised by `CALL` at `SP = 15` (R72); `info` is SP. Safe. -/
  | stackOverflow (sp : Fin 16)
  /-- Code 4, raised by `RET` at `SP = 0` (R70); `info` is SP. Safe. -/
  | stackUnderflow (sp : Fin 16)
  /-- Code 5, raised by `DRW`, `LD B, Vx`, `LD [I], Vx` and `LD Vx, [I]` when the transfer leaves memory (R39); `info` is
  the lowest address of the transfer outside memory. Safe. -/
  | memOutOfRange (addr : Nat)
  /-- Code 6, raised by `LD F, Vx` when `vx > 15` (R98); `info` is `vx`. Safe. -/
  | invalidFontDigit (vx : Byte)
  /-- Code 7, raised by `SKP Vx` and `SKNP Vx` when `vx > 15` (R108, R109); `info` is `vx`. Safe. -/
  | invalidKeyIndex (vx : Byte)
  deriving DecidableEq, Repr

/-- Why the model gives a step no meaning. -/
inductive Refusal where
  /-- An arm of `exec` whose instruction has no meaning yet raises it. No arm does: every instruction is modelled. Safe. -/
  | notModelled (mnemonic : String)
  deriving DecidableEq, Repr

/-- The state right after Initialize (R22, R140): everything zero or false, `PC = 0x200`, and memory at its reset contents
(the font below 0x050, zeros above), which is the memory that lists nothing (log 3). The model's own fields start empty
and at 0 (DESIGN CHOICE, log 5, log 6). -/
def State.reset : State where
  v := Vector.replicate 16 0
  i := 0
  pc := 0x200
  sp := 0
  stack := Vector.replicate 16 0
  dt := 0
  st := 0
  key := Vector.replicate 16 false
  fb := Vector.replicate 32 (Vector.replicate 64 false)
  ch := false
  mem := []
  inputs := []
  cycles := 0

end Sys2Proof.Machine
end

