-- ==== Sys2Proof/Machine/Ops.lean ====
section
/-! DEFINITION. The named operations over the state: registers, program counter, memory and its bounds check, fetch, call
stack, framebuffer, keypad, timers, the two inputs of a cycle, and raising a fault. -/

namespace Sys2Proof.Machine

/-! ### Faults: the exceptions of this machine -/

/-- TAKING AN EXCEPTION, the one shared operation (R121): the cycle answers the fault to the host and NO state changes; there
is no vector, no saved state and no mode (R124). There is no return from it inside the machine (R124): the host goes on
from the unchanged state (`hostStep`, Machine/HostOps.lean; log 4). -/
def raise (f : Fault) : Host.Outcome State Fault Refusal := .fault f

/-- An instruction's single check, made before its first write (R121, R122): raise, or go on. -/
def checked (check : Option Fault) (go : Host.Outcome State Fault Refusal) : Host.Outcome State Fault Refusal :=
  match check with
  | some f => raise f
  | none => go

/-! ### General registers and the program counter -/

/-- Read of `V[r]` (R9, R10). -/
def State.reg (s : State) (r : Reg) : Byte := s.v[r]

/-- `V[r] <- b` (R9, R10). -/
def State.setReg (s : State) (r : Reg) (b : Byte) : State := { s with v := s.v.set r b }

/-- Replace all general registers (Block load, R101). -/
def State.setRegs (s : State) (v : Vector Byte 16) : State := { s with v := v }

/-- `I <- w` (R9, R12). -/
def State.setI (s : State) (w : Word) : State := { s with i := w }

/-- `pc <- w` (R9, R13). -/
def State.setPc (s : State) (w : Word) : State := { s with pc := w }

/-- The default update `pc <- PC + 2` (R13, R25). PC is 16 bits and never masked (D7); above 0xFFFD, where no fetch
succeeds, the addition wraps (log 8). -/
def State.advance (s : State) : State := s.setPc (s.pc + 2)

/-- The skips' update: `PC + 4` if the condition holds, else `PC + 2` (R13, R25). -/
def State.skipIf (s : State) (cond : Bool) : State := s.setPc (if cond then s.pc + 4 else s.pc + 2)

/-! ### Memory -/

/-- What an address that the memory does not list reads as: the reset contents, the font below 0x050 and 0 above
(R22, R31, R34; log 3). -/
def Memory.unlisted (a : Nat) : Byte := Config.font.getD a 0

/-- `Mem[a]` (R9). -/
def Memory.read : Memory → Nat → Byte
  | [], a => Memory.unlisted a
  | c :: m, a => if c.1 = a then c.2 else Memory.read m a

/-- A cell put at its place in rising order of addresses. -/
def Memory.insertCell (c : Host.Cell) : Memory → Memory
  | [] => [c]
  | d :: m => if c.1 < d.1 then c :: d :: m else d :: Memory.insertCell c m

/-- `Mem[a] <- b`. Writing what the unlisted address reads as removes the entry, so the form stays canonical. -/
def Memory.write (m : Memory) (a : Nat) (b : Byte) : Memory :=
  if b = Memory.unlisted a then m.filter (fun c => c.1 != a)
  else Memory.insertCell (a, b) (m.filter (fun c => c.1 != a))

/-- The canonical form: every listed address exists (R30), no entry equals what the unlisted address reads as, and
addresses rise strictly. -/
def Memory.wf : Memory → Bool
  | [] => true
  | c :: m => decide (c.1 < Config.memSize) && (c.2 != Memory.unlisted c.1) && m.all (fun d => decide (c.1 < d.1))
      && Memory.wf m

/-- `n` bytes from `a`, in ascending address order (R38, R39). -/
def Memory.readBytes (m : Memory) (a : Nat) : Nat → List Byte
  | 0 => []
  | n + 1 => m.read a :: Memory.readBytes m (a + 1) n

/-- The bytes of a list at `a`, `a + 1`, ..., in ascending address order (R38, R39). -/
def Memory.writeBytes (m : Memory) (a : Nat) : List Byte → Memory
  | [] => m
  | b :: bs => Memory.writeBytes (m.write a b) (a + 1) bs

/-- The byte at an address. -/
def State.readByte (s : State) (a : Nat) : Byte := s.mem.read a

/-- Replace the memory. -/
def State.setMem (s : State) (m : Memory) : State := { s with mem := m }

/-- Store a list of bytes from an address upward (after the bounds check). -/
def State.storeBytes (s : State) (a : Nat) (bs : List Byte) : State := s.setMem (s.mem.writeBytes a bs)

/-- The bounds check of a transfer of `n` bytes at `a` (R39): made once, before any byte moves; `n = 0` never faults (D19);
`info` is the lowest address of the transfer outside memory. -/
def boundsCheck (a n : Nat) : Option Fault :=
  if 0 < n ∧ 4095 < a + n - 1 then some (.memOutOfRange (max a 4096)) else none

/-! ### Fetch -/

/-- The bounds check of the fetch (R36): either byte outside memory. -/
def State.fetchCheck (s : State) : Option Fault :=
  if 4095 < s.pc.toNat + 1 then some (.fetchOutOfRange s.pc) else none

/-- The instruction word at PC, big-endian (R35, R36): `Mem[PC]` in bits 15:8. -/
def State.fetchWord (s : State) : Word := s.readByte s.pc.toNat ++ s.readByte (s.pc.toNat + 1)

/-! ### Call stack -/

/-- `STACK[k]` (R9, R14). -/
def State.slot (s : State) (k : Fin 16) : Word := s.stack[k]

/-- The check of a Call: `STACK_OVERFLOW` at `SP = 15` (R72, C1). -/
def State.overflowCheck (s : State) : Option Fault :=
  if s.sp = Config.spMax then some (.stackOverflow s.sp) else none

/-- The check of a Return: `STACK_UNDERFLOW` at `SP = 0` (R70). -/
def State.underflowCheck (s : State) : Option Fault :=
  if s.sp = 0 then some (.stackUnderflow s.sp) else none

/-- `STACK[SP] <- w; SP <- SP + 1` (R14, R72), below `SP = 15`. -/
def State.push (s : State) (w : Word) : State := { s with stack := s.stack.set s.sp w, sp := s.sp + 1 }

/-- `SP <- SP - 1` (R14, R70), above `SP = 0`; the slot keeps its value (D20). -/
def State.pop (s : State) : State := { s with sp := s.sp - 1 }

/-! ### Framebuffer and changed flag -/

/-- `FB[x, y]` of a framebuffer (R9, R17). -/
def Framebuffer.pixel (f : Framebuffer) (x : Fin 64) (y : Fin 32) : Bool := f[y][x]

/-- `FB[x, y] <- b` in a framebuffer. -/
def Framebuffer.setPixel (f : Framebuffer) (x : Fin 64) (y : Fin 32) (b : Bool) : Framebuffer :=
  f.set y (f[y].set x b)

/-- The framebuffer with every cell false (R104). -/
def Framebuffer.blank : Framebuffer := Vector.replicate 32 (Vector.replicate 64 false)

/-- What a draw carries along: the framebuffer so far, and whether any toggle turned a set pixel off (R105). -/
structure Canvas where
  /-- The framebuffer so far. -/
  fb : Framebuffer
  /-- The collision flag so far. -/
  hit : Bool
  deriving DecidableEq, Repr

/-- XOR-toggle one cell and note a collision (R105). -/
def Canvas.toggle (c : Canvas) (x : Fin 64) (y : Fin 32) : Canvas :=
  { fb := c.fb.setPixel x y (!c.fb.pixel x y), hit := c.hit || c.fb.pixel x y }

/-- The column of a sprite pixel, `(vx + col) mod 64`, the sum formed in the integers (R105, C9). -/
def targetX (vx : Byte) (col : Nat) : Fin 64 := Fin.ofNat 64 (vx.toNat + col)

/-- The row of a sprite pixel, `(vy + row) mod 32`, the sum formed in the integers (R105, C9). -/
def targetY (vy : Byte) (row : Nat) : Fin 32 := Fin.ofNat 32 (vy.toNat + row)

/-- The columns `0 .. k-1` of one sprite row, bit 7 of the byte leftmost (R105). -/
def Canvas.drawCols (vx vy : Byte) (row : Nat) (b : Byte) (c : Canvas) : Nat → Canvas
  | 0 => c
  | k + 1 =>
    let c' := Canvas.drawCols vx vy row b c k
    if b.getLsbD (7 - k) then c'.toggle (targetX vx k) (targetY vy row) else c'

/-- The sprite rows, one byte of 8 columns each, the first at row index `row` (R105). -/
def Canvas.drawRows (vx vy : Byte) (row : Nat) (c : Canvas) : List Byte → Canvas
  | [] => c
  | b :: bs => Canvas.drawRows vx vy (row + 1) (Canvas.drawCols vx vy row b c 8) bs

/-- `FB[x, y]` (R9, R17). -/
def State.pixel (s : State) (x : Fin 64) (y : Fin 32) : Bool := s.fb.pixel x y

/-- A new framebuffer, and the changed flag raised, as every Clear display and Draw sprite does (R18, D14). -/
def State.show (s : State) (f : Framebuffer) : State := { s with fb := f, ch := true }

/-! ### Keypad -/

/-- `KEY[k]` (R9, R16). -/
def State.keyDown (s : State) (k : Fin 16) : Bool := s.key[k]

/-- `KEY[k] <- b`. -/
def State.setKey (s : State) (k : Fin 16) (b : Bool) : State := { s with key := s.key.set k b }

/-- Every flag false (R111). -/
def State.clearKeys (s : State) : State := { s with key := Vector.replicate 16 false }

/-- The least `k` with `KEY[k]` true, "in index order" (R111). -/
def State.lowestKey (s : State) : Option (Fin 16) := (List.finRange 16).find? (fun k => s.keyDown k)

/-! ### Timers and the end of a cycle -/

/-- `DT <- b` (R112). -/
def State.setDt (s : State) (b : Byte) : State := { s with dt := b }

/-- `ST <- b` (R113). -/
def State.setSt (s : State) (b : Byte) : State := { s with st := b }

/-- One timer's step: down by 1 if nonzero (R126). -/
def countDown (t : Byte) : Byte := if t = 0 then 0 else t - 1

/-- `TimerStep()` (R126). -/
def State.timerStep (s : State) : State := { s with dt := countDown s.dt, st := countDown s.st }

/-- The `tick` input of this cycle (R127): the host's, and 1 where it gave none, the spec's default (log 6). -/
def State.tickInput (s : State) : Bool :=
  match s.inputs with
  | c :: _ => c.tick
  | [] => true

/-- The `rnd` input of this cycle (R93): the host's, and a free value where it gave none (log 5). -/
def State.rndInput (s : State) : Byte :=
  match s.inputs with
  | c :: _ => c.rnd
  | [] => Config.rnd s.cycles

/-- The cycle's inputs are used up, and the next free draw is a fresh one (log 5). -/
def State.useInputs (s : State) : State := { s with inputs := s.inputs.tail, cycles := s.cycles + 1 }

/-- The timer step where `tick` is 1 (R24, R126, R127), and the cycle's inputs used up. -/
def State.closeCycle (s : State) : State := (if s.tickInput then s.timerStep else s).useInputs

/-- The end of a cycle (R24): a successful one is closed; a failing one changes nothing (R121). -/
def endCycle : Host.Outcome State Fault Refusal → Host.Outcome State Fault Refusal
  | .next s => .next s.closeCycle
  | .fault f => .fault f
  | .refused r => .refused r

end Sys2Proof.Machine
end

