-- ==== Sys2Proof/Machine/Flags.lean ====
section
/-! DEFINITION. The flag computations (R11): what the five flag-writing ALU instructions store in VF, and the arithmetic
results beside them. Operands are converted to integers, computed exactly and narrowed at the end (R92). -/

namespace Sys2Proof.Machine

/-- A boolean written into a register: 1 for true, 0 for false (R8, R11). -/
def flagByte (b : Bool) : Byte := if b then 1 else 0

/-- Carry out of `vx + vy`: the true sum exceeds 255 (R87). -/
def carryOut (vx vy : Byte) : Bool := decide (vx.toNat + vy.toNat > 255)

/-- Borrow of `a - b`: the subtrahend is the greater (R88, R90). 1 means a borrow occurred (R11). -/
def borrowOut (a b : Byte) : Bool := decide (b.toNat > a.toNat)

/-- The bit a right shift moves out, bit 0 (R89). -/
def lowBit (v : Byte) : Bool := v.getLsbD 0

/-- The bit a left shift moves out, bit 7 (R91). -/
def highBit (v : Byte) : Bool := v.getLsbD 7

/-- `(a + b) mod 256` (R81, R87). -/
def addBytes (a b : Byte) : Byte := BitVec.ofNat 8 (a.toNat + b.toNat)

/-- `(a - b) mod 256` (R88, R90). -/
def subBytes (a b : Byte) : Byte := BitVec.ofInt 8 ((a.toNat : Int) - (b.toNat : Int))

/-- `v div 2` (R89). -/
def halfByte (v : Byte) : Byte := BitVec.ofNat 8 (v.toNat / 2)

/-- `(v * 2) mod 256` (R91). -/
def doubleByte (v : Byte) : Byte := BitVec.ofNat 8 (v.toNat * 2)

/-- The end of an ALU instruction with a flag (R82): the result first, then VF, then `pc <- PC + 2`, so VF ends as the flag
when `x = 15` (D10). -/
def State.writeFlagged (s : State) (x : Reg) (result : Byte) (flag : Bool) : State :=
  ((s.setReg x result).setReg VF (flagByte flag)).advance

end Sys2Proof.Machine
end

