-- ==== Sys2Proof/Machine/Alu.lean ====
section
/-! DEFINITION. Register loads, arithmetic, logic, shifts and Random (`spec/41_alu.md`). None of them can fault. -/

namespace Sys2Proof.Machine

/-- `LD Vx, kk` (R80). -/
def execLdImm (x : Reg) (kk : Byte) (s : State) : Host.Outcome State Fault Refusal :=
  .next (s.setReg x kk).advance

/-- `ADD Vx, kk` (R81): no flag. -/
def execAddImm (x : Reg) (kk : Byte) (s : State) : Host.Outcome State Fault Refusal :=
  .next (s.setReg x (addBytes (s.reg x) kk)).advance

/-- `LD Vx, Vy` (R83). -/
def execLdReg (x y : Reg) (s : State) : Host.Outcome State Fault Refusal :=
  .next (s.setReg x (s.reg y)).advance

/-- `OR Vx, Vy` (R84): no flag. -/
def execOrReg (x y : Reg) (s : State) : Host.Outcome State Fault Refusal :=
  .next (s.setReg x (s.reg x ||| s.reg y)).advance

/-- `AND Vx, Vy` (R85): no flag. -/
def execAndReg (x y : Reg) (s : State) : Host.Outcome State Fault Refusal :=
  .next (s.setReg x (s.reg x &&& s.reg y)).advance

/-- `XOR Vx, Vy` (R86): no flag. -/
def execXorReg (x y : Reg) (s : State) : Host.Outcome State Fault Refusal :=
  .next (s.setReg x (s.reg x ^^^ s.reg y)).advance

/-- `ADD Vx, Vy` (R87): VF is the carry out. -/
def execAddReg (x y : Reg) (s : State) : Host.Outcome State Fault Refusal :=
  .next (s.writeFlagged x (addBytes (s.reg x) (s.reg y)) (carryOut (s.reg x) (s.reg y)))

/-- `SUB Vx, Vy` (R88): `vx - vy`, VF is 1 on borrow. -/
def execSub (x y : Reg) (s : State) : Host.Outcome State Fault Refusal :=
  .next (s.writeFlagged x (subBytes (s.reg x) (s.reg y)) (borrowOut (s.reg x) (s.reg y)))

/-- `SHR Vx, Vy` (R89): shifts `vy`, VF is its bit 0. -/
def execShr (x y : Reg) (s : State) : Host.Outcome State Fault Refusal :=
  .next (s.writeFlagged x (halfByte (s.reg y)) (lowBit (s.reg y)))

/-- `SUBN Vx, Vy` (R90): `vy - vx`, VF is 1 on borrow. -/
def execSubn (x y : Reg) (s : State) : Host.Outcome State Fault Refusal :=
  .next (s.writeFlagged x (subBytes (s.reg y) (s.reg x)) (borrowOut (s.reg y) (s.reg x)))

/-- `SHL Vx, Vy` (R91): shifts `vy`, VF is its bit 7. -/
def execShl (x y : Reg) (s : State) : Host.Outcome State Fault Refusal :=
  .next (s.writeFlagged x (doubleByte (s.reg y)) (highBit (s.reg y)))

/-- `RND Vx, kk` (R93): the cycle's random byte, a free value where the host gave none (log 5), under the mask. -/
def execRnd (x : Reg) (kk : Byte) (s : State) : Host.Outcome State Fault Refusal :=
  .next (s.setReg x (s.rndInput &&& kk)).advance

end Sys2Proof.Machine
end

