-- ==== Sys2Proof/Machine/Operands.lean ====
section
/-! DEFINITION. The operand forms (R54): immediates zero-extended to their destination, the implicit operands of the block
transfers, the decimal digits, the font address, and a register as a key index. -/

namespace Sys2Proof.Machine

/-- `zext_16(nnn)` (R54). -/
def addrOperand (nnn : Addr12) : Word := nnn.setWidth 16

/-- `zext_16(vx)` (R78, R97). -/
def byteOperand (b : Byte) : Word := b.setWidth 16

/-- The registers of a block transfer, V0 to Vx inclusive (R100, R101). -/
def blockRegs (x : Reg) : List Reg := (List.finRange 16).take (x.val + 1)

/-- The bytes a Block store moves, `V[0], ..., V[x]` (R100). -/
def State.blockBytes (s : State) (x : Reg) : List Byte := (blockRegs x).map s.reg

/-- The registers after a Block load: `V[k] <- Mem[I + k]` for `k` in 0..x, the others kept (R101). -/
def State.loadedRegs (s : State) (x : Reg) : Vector Byte 16 :=
  Vector.ofFn fun r : Fin 16 => if r ≤ x then s.readByte (s.i.toNat + r.val) else s.reg r

/-- The decimal digits of a byte: hundreds, tens, ones (R99). -/
def bcdDigits (b : Byte) : List Byte :=
  [BitVec.ofNat 8 (b.toNat / 100), BitVec.ofNat 8 (b.toNat / 10 % 10), BitVec.ofNat 8 (b.toNat % 10)]

/-- The check of the font digit: the whole byte, not its low nibble (R98). -/
def fontCheck (vx : Byte) : Option Fault :=
  if vx.toNat > 15 then some (.invalidFontDigit vx) else none

/-- The address of the glyph of a digit, `5 * vx` (R98). -/
def glyphAddr (vx : Byte) : Word := BitVec.ofNat 16 (Config.glyphBytes * vx.toNat)

/-- The check of a key index: the whole byte, not its low nibble (R108, D9). -/
def keyCheck (vx : Byte) : Option Fault :=
  if vx.toNat > 15 then some (.invalidKeyIndex vx) else none

/-- A register's value as a key index, after `keyCheck` (R108). -/
def keyIndex (vx : Byte) : Fin 16 := Fin.ofNat 16 vx.toNat

/-- `PC` of Jump with offset: `zext_16(V[0]) + zext_16(nnn)`, not reduced modulo 4096 (R78). -/
def State.offsetTarget (s : State) (nnn : Addr12) : Word := byteOperand (s.reg 0) + addrOperand nnn

end Sys2Proof.Machine
end

