-- ==== Sys2Proof/Machine/Display.lean ====
section
/-! DEFINITION. The display instructions (`spec/43_display.md`): `CLS` and `DRW`. -/

namespace Sys2Proof.Machine

/-- `CLS` (R104): every cell false, CH true whether or not a cell changed (D14), VF not written. -/
def execCls (s : State) : Host.Outcome State Fault Refusal :=
  .next (s.show Framebuffer.blank).advance

/-- The canvas a draw of `n` rows from memory at `I` leaves: start with no collision, XOR, wrap per pixel (R105). -/
def State.drawn (s : State) (vx vy : Byte) (n : Nat) : Canvas :=
  Canvas.drawRows vx vy 0 { fb := s.fb, hit := false } (s.mem.readBytes s.i.toNat n)

/-- `DRW Vx, Vy, n` (R105): coordinates are the register values from before VF is written; the bounds check precedes
everything; VF is always written, 0 or 1; CH true; `I` and memory kept. -/
def execDrw (x y : Reg) (n : Fin 16) (s : State) : Host.Outcome State Fault Refusal :=
  checked (boundsCheck s.i.toNat n.val)
    (.next (((s.show (s.drawn (s.reg x) (s.reg y) n.val).fb).setReg VF
      (flagByte (s.drawn (s.reg x) (s.reg y) n.val).hit)).advance))

end Sys2Proof.Machine
end

