-- ==== Sys2Proof/Machine/Flow.lean ====
section
/-! DEFINITION. The control-transfer instructions (`spec/40_flow.md`). No target is checked when the transfer executes
(R77): an out-of-range PC faults at the next fetch. -/

namespace Sys2Proof.Machine

/-- `RET` (R70): pop the call site and go on after it; the slot keeps its value. -/
def execRet (s : State) : Host.Outcome State Fault Refusal :=
  checked s.underflowCheck (.next (s.pop.setPc (s.slot (s.sp - 1) + 2)))

/-- `JP nnn` (R71). -/
def execJp (nnn : Addr12) (s : State) : Host.Outcome State Fault Refusal :=
  .next (s.setPc (addrOperand nnn))

/-- `CALL nnn` (R72): the slot receives the address of the Call itself. -/
def execCall (nnn : Addr12) (s : State) : Host.Outcome State Fault Refusal :=
  checked s.overflowCheck (.next ((s.push s.pc).setPc (addrOperand nnn)))

/-- `SE Vx, kk` (R73). -/
def execSeImm (x : Reg) (kk : Byte) (s : State) : Host.Outcome State Fault Refusal :=
  .next (s.skipIf (s.reg x == kk))

/-- `SNE Vx, kk` (R74). -/
def execSneImm (x : Reg) (kk : Byte) (s : State) : Host.Outcome State Fault Refusal :=
  .next (s.skipIf (s.reg x != kk))

/-- `SE Vx, Vy` (R75). -/
def execSeReg (x y : Reg) (s : State) : Host.Outcome State Fault Refusal :=
  .next (s.skipIf (s.reg x == s.reg y))

/-- `SNE Vx, Vy` (R76). -/
def execSneReg (x y : Reg) (s : State) : Host.Outcome State Fault Refusal :=
  .next (s.skipIf (s.reg x != s.reg y))

/-- `JP V0, nnn` (R78): the offset register is always V0; the sum is not reduced. -/
def execJpV0 (nnn : Addr12) (s : State) : Host.Outcome State Fault Refusal :=
  .next (s.setPc (s.offsetTarget nnn))

end Sys2Proof.Machine
end

