-- ==== Sys2Proof/Machine/Index.lean ====
section
/-! DEFINITION. The index register and memory instructions (`spec/42_index_memory.md`). `I` is changed by `LD I`, `ADD I`
and `LD F` only (R12, R38). -/

namespace Sys2Proof.Machine

/-- `LD I, nnn` (R96). -/
def execLdI (nnn : Addr12) (s : State) : Host.Outcome State Fault Refusal :=
  .next (s.setI (addrOperand nnn)).advance

/-- `ADD I, Vx` (R97): modulo 65536, no flag, no fault. -/
def execAddI (x : Reg) (s : State) : Host.Outcome State Fault Refusal :=
  .next (s.setI (s.i + byteOperand (s.reg x))).advance

/-- `LD F, Vx` (R98): the address of the glyph, or `INVALID_FONT_DIGIT`. -/
def execLdF (x : Reg) (s : State) : Host.Outcome State Fault Refusal :=
  checked (fontCheck (s.reg x)) (.next (s.setI (glyphAddr (s.reg x))).advance)

/-- `LD B, Vx` (R99): three decimal digits at `I`, all or nothing. -/
def execLdB (x : Reg) (s : State) : Host.Outcome State Fault Refusal :=
  checked (boundsCheck s.i.toNat 3) (.next (s.storeBytes s.i.toNat (bcdDigits (s.reg x))).advance)

/-- `LD [I], Vx` (R100): V0 to Vx at `I`, all or nothing; `I` kept. -/
def execStBlock (x : Reg) (s : State) : Host.Outcome State Fault Refusal :=
  checked (boundsCheck s.i.toNat (x.val + 1)) (.next (s.storeBytes s.i.toNat (s.blockBytes x)).advance)

/-- `LD Vx, [I]` (R101): V0 to Vx from `I`, all or nothing; `I` kept. -/
def execLdBlock (x : Reg) (s : State) : Host.Outcome State Fault Refusal :=
  checked (boundsCheck s.i.toNat (x.val + 1)) (.next (s.setRegs (s.loadedRegs x)).advance)

end Sys2Proof.Machine
end

