-- ==== Sys2Proof/Machine/Keypad.lean ====
section
/-! DEFINITION. The keypad and timer instructions (`spec/44_keypad_timers.md`). -/

namespace Sys2Proof.Machine

/-- `SKP Vx` (R108): test, consume, skip if the flag was set. -/
def execSkp (x : Reg) (s : State) : Host.Outcome State Fault Refusal :=
  checked (keyCheck (s.reg x))
    (.next ((s.setKey (keyIndex (s.reg x)) false).skipIf (s.keyDown (keyIndex (s.reg x)))))

/-- `SKNP Vx` (R109): test, consume, skip if the flag was clear. -/
def execSknp (x : Reg) (s : State) : Host.Outcome State Fault Refusal :=
  checked (keyCheck (s.reg x))
    (.next ((s.setKey (keyIndex (s.reg x)) false).skipIf (!s.keyDown (keyIndex (s.reg x)))))

/-- `LD Vx, DT` (R110): the value before this cycle's timer step. -/
def execLdVxDt (x : Reg) (s : State) : Host.Outcome State Fault Refusal :=
  .next (s.setReg x s.dt).advance

/-- `LD Vx, K` (R111): no flag set, PC stays and nothing else changes; else the least index, all flags cleared. -/
def execLdVxK (x : Reg) (s : State) : Host.Outcome State Fault Refusal :=
  match s.lowestKey with
  | none => .next (s.setPc s.pc)
  | some k => .next ((s.clearKeys.setReg x (BitVec.ofNat 8 k.val)).advance)

/-- `LD DT, Vx` (R112). -/
def execLdDtVx (x : Reg) (s : State) : Host.Outcome State Fault Refusal :=
  .next (s.setDt (s.reg x)).advance

/-- `LD ST, Vx` (R113). -/
def execLdStVx (x : Reg) (s : State) : Host.Outcome State Fault Refusal :=
  .next (s.setSt (s.reg x)).advance

end Sys2Proof.Machine
end

