-- ==== Sys2Proof/Machine/Step.lean ====
section
/-! DEFINITION. One cycle of the core (R24): fetch, decode, execute, timer step. -/

namespace Sys2Proof.Machine

/-- Run one cycle (R24): the fetch check, the decode check, then the instruction, which makes its own single check (R122);
a successful cycle ends with the timer step where `tick` is 1; a failing one changes nothing (R121). -/
def step (s : State) : Host.Outcome State Fault Refusal :=
  match s.fetchCheck with
  | some f => raise f
  | none =>
    match decodeWord s.fetchWord with
    | .error _ => raise (.illegalInstruction s.fetchWord)
    | .ok i => endCycle (exec i s)

/-- The state with a table word's two bytes stored big-endian where the next fetch reads (R35, R36); where PC addresses no
two bytes of memory, no fetch succeeds and the state is left as it is (log 14). -/
def State.withFetchWord (s : State) (nbits w : Nat) : State :=
  match s.fetchCheck with
  | some _ => s
  | none => s.storeBytes s.pc.toNat [highByte (tableWord nbits w), lowByte (tableWord nbits w)]

end Sys2Proof.Machine
end

