-- ==== Sys2Proof/Machine/HostOps.lean ====
section
/-! DEFINITION. The host's moves (R130 to R135, R140, R141), each atomic and between two cycles, and what it gets back.
They are the second agent of rule R3; a run of the whole machine is a list of these moves (R143). -/

namespace Sys2Proof.Machine

/-- The code of a fault (R120). -/
def Fault.code : Fault → Nat
  | .fetchOutOfRange _ => 1
  | .illegalInstruction _ => 2
  | .stackOverflow _ => 3
  | .stackUnderflow _ => 4
  | .memOutOfRange _ => 5
  | .invalidFontDigit _ => 6
  | .invalidKeyIndex _ => 7

/-- The `info` value a fault reports (R120). -/
def Fault.info : Fault → Nat
  | .fetchOutOfRange pc => pc.toNat
  | .illegalInstruction w => w.toNat
  | .stackOverflow sp => sp.val
  | .stackUnderflow sp => sp.val
  | .memOutOfRange a => a
  | .invalidFontDigit vx => vx.toNat
  | .invalidKeyIndex vx => vx.toNat

/-- Code 8, `ROM_TOO_LARGE`, the error of Load program (R120, R141). -/
def romTooLargeCode : Nat := 8

/-- A move of the host (R130). -/
inductive HostMove where
  /-- Initialize with a font table (R140; the parameter `FONT` of R34). -/
  | initializeAll (font : Vector Byte 80)
  /-- Load program (R141). -/
  | loadProgram (image : List Byte)
  /-- Run one cycle, with the inputs `tick` and `rnd` (R131). -/
  | runCycle (tick : Bool) (rnd : Byte)
  /-- Inject key press; the index is a 4-bit value (R132, D24). -/
  | injectKey (k : Fin 16)
  /-- Read framebuffer (R133). -/
  | readFramebuffer
  /-- Read the changed flag (R134). -/
  | readChanged
  /-- Clear the changed flag (R134). -/
  | clearChanged
  deriving DecidableEq, Repr

/-- What a move answers the host. -/
inductive HostReply where
  /-- The move succeeded (`OK`, code 0). -/
  | ok
  /-- A failed cycle or load: its code and `info` (R121, R141). -/
  | failure (code info : Nat)
  /-- The 2048 cells at linear index `x + 64 * y` (R133). -/
  | cells (fb : List Bool)
  /-- The changed flag (R134). -/
  | changed (ch : Bool)
  /-- The model gave the cycle no meaning; it never does. -/
  | noMeaning (r : Refusal)
  deriving DecidableEq, Repr

/-- Initialize (R140): everything as at reset but with the given font in memory; nothing survives from before except the
model's own record of the host's inputs (log 15). -/
def State.initializeWith (s : State) (font : Vector Byte 80) : State :=
  { State.reset with mem := Memory.writeBytes [] 0 font.toList, inputs := s.inputs, cycles := s.cycles }

/-- Load program (R141): too long an image writes nothing and fails; else its bytes from 0x200 upward, and nothing else. -/
def State.loadImage (s : State) (image : List Byte) : State × HostReply :=
  if image.length > Config.romMax then (s, .failure romTooLargeCode image.length)
  else (s.storeBytes Config.progBase image, .ok)

/-- The result of a cycle as the host sees it (R121, R131): a failing cycle leaves the state as it was. -/
def cycleReply (before : State) : Host.Outcome State Fault Refusal → State × HostReply
  | .next s => (s, .ok)
  | .fault f => (before, .failure f.code f.info)
  | .refused r => (before, .noMeaning r)

/-- The state with the inputs of the next cycle given (R131). -/
def State.givenInputs (s : State) (tick : Bool) (rnd : Byte) : State :=
  { s with inputs := { tick := tick, rnd := rnd } :: s.inputs }

/-- Run one cycle with its inputs (R131). -/
def State.runOneCycle (s : State) (tick : Bool) (rnd : Byte) : State × HostReply :=
  cycleReply s (step (s.givenInputs tick rnd))

/-- Inject key press (R132): one flag set, nothing else. -/
def State.injectKey (s : State) (k : Fin 16) : State := s.setKey k true

/-- All cells in row-major order, linear index `x + 64 * y` (R17, R133). -/
def State.frameCells (s : State) : List Bool := s.fb.toList.flatMap (fun row => row.toList)

/-- `ClearChanged()` (R134). -/
def State.clearChanged (s : State) : State := { s with ch := false }

/-- The optional output `sound_active` (R129). -/
def State.soundActive (s : State) : Bool := s.st != 0

/-- One move of the host and its answer (R130). -/
def hostStep (m : HostMove) (s : State) : State × HostReply :=
  match m with
  | .initializeAll font => (s.initializeWith font, .ok)
  | .loadProgram image => s.loadImage image
  | .runCycle tick rnd => s.runOneCycle tick rnd
  | .injectKey k => (s.injectKey k, .ok)
  | .readFramebuffer => (s, .cells s.frameCells)
  | .readChanged => (s, .changed s.ch)
  | .clearChanged => (s.clearChanged, .ok)

/-- A list of moves in order (R143: a run is whatever finite sequence the host performed). -/
def hostRun : List HostMove → State → State
  | [], s => s
  | m :: ms, s => hostRun ms (hostStep m s).1

end Sys2Proof.Machine
end

