-- ==== Sys2Proof/WellFormed.lean ====
section
/-! DEFINITION. Well-formedness of an instruction. The operand ranges of rule R51 are carried by the operand types, so the
checks stand where a raw number BECOMES an operand (`regOf`, `countOf`, `immOf`, `addrOf` refuse a number outside its
field), and `Instr.wellFormed` says of each instruction that its operands, read as numbers, lie in their fields' ranges. -/

namespace Sys2Proof

/-- A raw register number as an operand: 0..15, else refused (R51, R10 "Invalid register index (>15)"). -/
def regOf (k : Nat) : Option Reg :=
  if h : k < 16 then some ⟨k, h⟩ else none

/-- A raw row count as the operand `n`: 0..15, else refused (R51). -/
def countOf (k : Nat) : Option (Fin 16) :=
  if h : k < 16 then some ⟨k, h⟩ else none

/-- A raw 8-bit immediate as the operand `kk`: 0..255, else refused (R51). -/
def immOf (k : Nat) : Option Byte :=
  if k < 256 then some (BitVec.ofNat 8 k) else none

/-- A raw address as the operand `nnn`: 0..0xFFF, else refused (R51). -/
def addrOf (k : Nat) : Option Addr12 :=
  if k < 4096 then some (BitVec.ofNat 12 k) else none

/-- Every operand, read as a number, is one its field can hold (R51). -/
def Instr.wellFormed : Instr → Bool
  | .cls | .ret => true
  | .jp nnn | .call nnn | .ldI nnn | .jpV0 nnn => (addrOf nnn.toNat).isSome
  | .seImm x kk | .sneImm x kk | .ldImm x kk | .addImm x kk | .rnd x kk =>
    (regOf x.val).isSome && (immOf kk.toNat).isSome
  | .seReg x y | .ldReg x y | .orReg x y | .andReg x y | .xorReg x y | .addReg x y | .sub x y | .shr x y
  | .subn x y | .shl x y | .sneReg x y => (regOf x.val).isSome && (regOf y.val).isSome
  | .drw x y n => (regOf x.val).isSome && (regOf y.val).isSome && (countOf n.val).isSome
  | .skp x | .sknp x | .ldVxDt x | .ldVxK x | .ldDtVx x | .ldStVx x | .addI x | .ldF x | .ldB x | .stBlock x
  | .ldBlock x => (regOf x.val).isSome

end Sys2Proof
end

