-- ==== Sys2Proof/Safety.lean ====
section
/-! DEFINITION. The words in which the claims are stated: the invariant of the machine, what an instruction may write (its
frame), when a cycle faults, how it leaves PC, and which cells a draw touches. -/

namespace Sys2Proof.Machine

/-! ### The invariant -/

/-- What every reachable state satisfies: memory in canonical form; "No reachable PC value exceeds 0x10FE" (R13, R25 note);
every pending slot holds the address of a Call that was fetched, so at most 0xFFE (R25 note); "slot 15 is never written"
(R14), so it holds its reset value. -/
structure State.Inv (s : State) : Prop where
  /-- Memory is in canonical form, every listed address below 4096. -/
  memory : s.mem.wf = true
  /-- PC never exceeds 0x10FE. -/
  pcBound : s.pc.toNat ≤ 0x10FE
  /-- Pending call sites were fetched. -/
  pending : ∀ k : Fin 16, k < s.sp → (s.slot k).toNat ≤ 0xFFE
  /-- The last slot is never written. -/
  lastSlot : s.slot 15 = 0

/-! ### Frames -/

/-- The parts of the state other than the general registers and PC (R10 to R19), and the model's own inputs. -/
inductive Part where
  /-- `I`. -/
  | index
  /-- `SP`. -/
  | stackPointer
  /-- `STACK[0..15]`. -/
  | slots
  /-- `DT`. -/
  | delayTimer
  /-- `ST`. -/
  | soundTimer
  /-- `KEY[0..15]`. -/
  | keys
  /-- `FB`. -/
  | screen
  /-- `CH`. -/
  | changed
  /-- `Mem[0..4095]`. -/
  | memory
  /-- The model's `inputs` and `cycles`. -/
  | given
  deriving DecidableEq, Repr

/-- A part reads the same in two states. -/
def Part.same (p : Part) (s t : State) : Prop :=
  match p with
  | .index => t.i = s.i
  | .stackPointer => t.sp = s.sp
  | .slots => ∀ k, t.slot k = s.slot k
  | .delayTimer => t.dt = s.dt
  | .soundTimer => t.st = s.st
  | .keys => ∀ k, t.keyDown k = s.keyDown k
  | .screen => ∀ x y, t.pixel x y = s.pixel x y
  | .changed => t.ch = s.ch
  | .memory => ∀ a, t.readByte a = s.readByte a
  | .given => t.inputs = s.inputs ∧ t.cycles = s.cycles

/-- From `s` to `t` every general register outside `regs` and every part outside `parts` is unchanged; PC may change. -/
def UnchangedBut (regs : List Reg) (parts : List Part) (s t : State) : Prop :=
  (∀ r, r ∉ regs → t.reg r = s.reg r) ∧ ∀ p, p ∉ parts → p.same s t

/-- Every byte outside the `n` bytes from `a` reads as before. -/
def SameBytesOutside (a n : Nat) (s t : State) : Prop :=
  ∀ b, b < a ∨ a + n ≤ b → t.readByte b = s.readByte b

/-- The six instructions that write VF as a flag (R11). -/
def writesFlag : Instr → Bool
  | .addReg _ _ | .sub _ _ | .shr _ _ | .subn _ _ | .shl _ _ | .drw _ _ _ => true
  | .cls | .ret | .jp _ | .call _ | .seImm _ _ | .sneImm _ _ | .seReg _ _ | .ldImm _ _ | .addImm _ _ | .ldReg _ _
  | .orReg _ _ | .andReg _ _ | .xorReg _ _ | .sneReg _ _ | .ldI _ | .jpV0 _ | .rnd _ _ | .skp _ | .sknp _ | .ldVxDt _
  | .ldVxK _ | .ldDtVx _ | .ldStVx _ | .addI _ | .ldF _ | .ldB _ | .stBlock _ | .ldBlock _ => false

/-- The general registers an instruction names as its destination (R80 to R93, R101, R110, R111). -/
def destinations : Instr → List Reg
  | .ldImm x _ | .addImm x _ | .rnd x _ => [x]
  | .ldReg x _ | .orReg x _ | .andReg x _ | .xorReg x _ | .addReg x _ | .sub x _ | .shr x _ | .subn x _ | .shl x _ => [x]
  | .ldVxDt x | .ldVxK x => [x]
  | .ldBlock x => blockRegs x
  | .cls | .ret | .jp _ | .call _ | .seImm _ _ | .sneImm _ _ | .seReg _ _ | .sneReg _ _ | .ldI _ | .jpV0 _ | .drw _ _ _
  | .skp _ | .sknp _ | .ldDtVx _ | .ldStVx _ | .addI _ | .ldF _ | .ldB _ | .stBlock _ => []

/-- The general registers an instruction may write: its destinations, and VF where it writes the flag (R11). -/
def writtenRegs (i : Instr) : List Reg := destinations i ++ if writesFlag i then [VF] else []

/-- The other parts an instruction may write (R12, R14 to R18, R33); `LeavesRest` says what it keeps inside them. -/
def writtenParts : Instr → List Part
  | .cls => [.screen, .changed]
  | .drw _ _ _ => [.screen, .changed]
  | .ret => [.stackPointer]
  | .call _ => [.stackPointer, .slots]
  | .ldI _ | .addI _ | .ldF _ => [.index]
  | .skp _ | .sknp _ | .ldVxK _ => [.keys]
  | .ldDtVx _ => [.delayTimer]
  | .ldStVx _ => [.soundTimer]
  | .ldB _ | .stBlock _ => [.memory]
  | .jp _ | .seImm _ _ | .sneImm _ _ | .seReg _ _ | .ldImm _ _ | .addImm _ _ | .ldReg _ _ | .orReg _ _ | .andReg _ _
  | .xorReg _ _ | .addReg _ _ | .sub _ _ | .shr _ _ | .subn _ _ | .shl _ _ | .sneReg _ _ | .jpV0 _ | .rnd _ _
  | .ldVxDt _ | .ldBlock _ => []

/-! ### Draws -/

/-- A set bit of the sprite of `n` rows at `I`, drawn at column `vx` and row `vy`, has the cell `(px, py)` as its target:
bit 7 of a byte is column 0, and each coordinate wraps on its own (R105). -/
def State.Touches (s : State) (vx vy : Byte) (n : Nat) (px : Fin 64) (py : Fin 32) : Prop :=
  ∃ row < n, ∃ col < 8, (s.readByte (s.i.toNat + row)).getLsbD (7 - col) = true ∧
    (vx.toNat + col) % 64 = px.val ∧ (vy.toNat + row) % 32 = py.val

/-! ### What stays inside a written part -/

/-- Inside the parts it may write (`writtenParts`), what an instruction still leaves alone, at the address, slot, key and
cells its meaning uses: memory outside the stored bytes (R99, R100), every slot but the one at SP (R72), every key but the
tested one (R108, R109), every cell the sprite does not touch (R105); and a Wait for key that finds no key writes nothing at
all (R111). The other instructions write the whole of each part they may write, or none. -/
def LeavesRest (s t : State) : Instr → Prop
  | .ldB _ => SameBytesOutside s.i.toNat 3 s t
  | .stBlock x => SameBytesOutside s.i.toNat (x.val + 1) s t
  | .call _ => ∀ k, k ≠ s.sp → t.slot k = s.slot k
  | .skp x | .sknp x => ∀ k, k ≠ keyIndex (s.reg x) → t.keyDown k = s.keyDown k
  | .drw x y n => ∀ px py, ¬ s.Touches (s.reg x) (s.reg y) n.val px py → t.pixel px py = s.pixel px py
  | .ldVxK _ => (∀ k, s.keyDown k = false) → UnchangedBut [] [] s t
  | .cls | .ret | .jp _ | .seImm _ _ | .sneImm _ _ | .seReg _ _ | .ldImm _ _ | .addImm _ _ | .ldReg _ _ | .orReg _ _
  | .andReg _ _ | .xorReg _ _ | .addReg _ _ | .sub _ _ | .shr _ _ | .subn _ _ | .shl _ _ | .sneReg _ _ | .ldI _ | .jpV0 _
  | .rnd _ _ | .ldVxDt _ | .ldDtVx _ | .ldStVx _ | .addI _ | .ldF _ | .ldBlock _ => True

/-! ### What a cycle runs, and when it faults -/

/-- The cycle at `s` fetches and decodes the instruction `i` (R24, R35, R36). -/
def State.Fetches (s : State) (i : Instr) : Prop :=
  s.pc.toNat + 1 ≤ 4095 ∧ decodeWord (s.readByte s.pc.toNat ++ s.readByte (s.pc.toNat + 1)) = .ok i

/-- The table of rule R120: when a cycle raises a fault, by which instructions, and with which `info`. -/
def FaultCondition (s : State) : Fault → Prop
  | .fetchOutOfRange pc => 4095 < s.pc.toNat + 1 ∧ pc = s.pc
  | .illegalInstruction w =>
    s.pc.toNat + 1 ≤ 4095 ∧ w = s.readByte s.pc.toNat ++ s.readByte (s.pc.toNat + 1) ∧ ∀ i, decodeWord w ≠ .ok i
  | .stackOverflow sp => s.sp = 15 ∧ sp = 15 ∧ ∃ nnn, s.Fetches (.call nnn)
  | .stackUnderflow sp => s.sp = 0 ∧ sp = 0 ∧ s.Fetches .ret
  | .memOutOfRange a =>
    a = max s.i.toNat 4096 ∧
      ((∃ x y n, s.Fetches (.drw x y n) ∧ 0 < n.val ∧ 4095 < s.i.toNat + n.val - 1) ∨
       (∃ x, s.Fetches (.ldB x) ∧ 4095 < s.i.toNat + 2) ∨
       (∃ x, (s.Fetches (.stBlock x) ∨ s.Fetches (.ldBlock x)) ∧ 4095 < s.i.toNat + x.val))
  | .invalidFontDigit vx => 15 < vx.toNat ∧ ∃ x, s.Fetches (.ldF x) ∧ vx = s.reg x
  | .invalidKeyIndex vx => 15 < vx.toNat ∧ ∃ x, (s.Fetches (.skp x) ∨ s.Fetches (.sknp x)) ∧ vx = s.reg x

/-! ### PC -/

/-- The table of rule R25: PC after a successful execution of an instruction. -/
def pcAfter (s : State) : Instr → Word
  | .jp nnn | .call nnn => nnn.setWidth 16
  | .ret => s.slot (s.sp - 1) + 2
  | .jpV0 nnn => (s.reg 0).setWidth 16 + nnn.setWidth 16
  | .seImm x kk => if s.reg x = kk then s.pc + 4 else s.pc + 2
  | .sneImm x kk => if s.reg x ≠ kk then s.pc + 4 else s.pc + 2
  | .seReg x y => if s.reg x = s.reg y then s.pc + 4 else s.pc + 2
  | .sneReg x y => if s.reg x ≠ s.reg y then s.pc + 4 else s.pc + 2
  | .skp x => if s.keyDown (keyIndex (s.reg x)) = true then s.pc + 4 else s.pc + 2
  | .sknp x => if s.keyDown (keyIndex (s.reg x)) = false then s.pc + 4 else s.pc + 2
  | .ldVxK _ => if ∀ k, s.keyDown k = false then s.pc else s.pc + 2
  | .cls | .ldImm _ _ | .addImm _ _ | .ldReg _ _ | .orReg _ _ | .andReg _ _ | .xorReg _ _ | .addReg _ _ | .sub _ _
  | .shr _ _ | .subn _ _ | .shl _ _ | .ldI _ | .rnd _ _ | .drw _ _ _ | .ldVxDt _ | .ldDtVx _ | .ldStVx _ | .addI _
  | .ldF _ | .ldB _ | .stBlock _ | .ldBlock _ => s.pc + 2

/-! ### What no instruction observes -/

/-- Two states that agree on everything but the sound timer (read by no instruction, R15), the changed flag (read by no
instruction, R18) and the stack slots at or above SP (stale, R14, D20). -/
def State.LooksLike (s t : State) : Prop :=
  t.v = s.v ∧ t.i = s.i ∧ t.pc = s.pc ∧ t.sp = s.sp ∧ (∀ k, k < s.sp → t.slot k = s.slot k) ∧ t.dt = s.dt ∧
    t.key = s.key ∧ t.fb = s.fb ∧ t.mem = s.mem ∧ t.inputs = s.inputs ∧ t.cycles = s.cycles

end Sys2Proof.Machine
end

