-- ==== Sys2Proof/Certificates/Slice0/Obligations.lean ====
section
/-! DEFINITION. The statements for the provers. Each instruction's statement gives its encoding (R56), the conditions on which
it completes, what it writes, where PC goes, its whole frame, and where it faults. -/

open Sys2Proof Sys2Proof.Machine

/-! ### Display -/

/-- R104. -/
def Obligations.ClearDisplay : Prop :=
  decodeWord 0x00E0 = .ok .cls ∧
  ∀ s : State, ∃ t, exec .cls s = .next t ∧
    (∀ x y, t.pixel x y = false) ∧ t.ch = true ∧ t.pc = s.pc + 2 ∧
    UnchangedBut [] [.screen, .changed] s t

/-- R105. The bounds check precedes everything, so a faulting draw writes nothing. -/
def Obligations.DrawSprite : Prop :=
  ∀ (x y : Reg) (n : Fin 16),
    decodeWord (BitVec.ofNat 16 (0xD000 + x.val * 0x100 + y.val * 0x10 + n.val)) = .ok (.drw x y n) ∧
    ∀ s : State,
      (0 < n.val ∧ 4095 < s.i.toNat + n.val - 1 → exec (.drw x y n) s = .fault (.memOutOfRange (max s.i.toNat 4096))) ∧
      (n.val = 0 ∨ s.i.toNat + n.val - 1 ≤ 4095 → ∃ t, exec (.drw x y n) s = .next t ∧
        (∀ px py, s.Touches (s.reg x) (s.reg y) n.val px py → t.pixel px py = !s.pixel px py) ∧
        (∀ px py, ¬ s.Touches (s.reg x) (s.reg y) n.val px py → t.pixel px py = s.pixel px py) ∧
        ((∃ px py, s.Touches (s.reg x) (s.reg y) n.val px py ∧ s.pixel px py = true) → t.reg VF = 1) ∧
        ((∀ px py, s.Touches (s.reg x) (s.reg y) n.val px py → s.pixel px py = false) → t.reg VF = 0) ∧
        t.ch = true ∧ t.pc = s.pc + 2 ∧ UnchangedBut [VF] [.screen, .changed] s t)

/-! ### Control transfer -/

/-- R70. -/
def Obligations.ReturnPopsCallSite : Prop :=
  decodeWord 0x00EE = .ok .ret ∧
  ∀ s : State,
    (s.sp = 0 → exec .ret s = .fault (.stackUnderflow 0)) ∧
    (∀ k : Fin 16, s.sp.val = k.val + 1 → ∃ t, exec .ret s = .next t ∧
      t.sp = k ∧ t.pc = s.slot k + 2 ∧ UnchangedBut [] [.stackPointer] s t)

/-- R71. -/
def Obligations.JumpSetsPc : Prop :=
  ∀ nnn : Addr12,
    decodeWord (BitVec.ofNat 16 (0x1000 + nnn.toNat)) = .ok (.jp nnn) ∧
    ∀ s : State, ∃ t, exec (.jp nnn) s = .next t ∧ t.pc.toNat = nnn.toNat ∧ UnchangedBut [] [] s t

/-- R72. -/
def Obligations.CallPushesCallSite : Prop :=
  ∀ nnn : Addr12,
    decodeWord (BitVec.ofNat 16 (0x2000 + nnn.toNat)) = .ok (.call nnn) ∧
    ∀ s : State,
      (s.sp.val = 15 → exec (.call nnn) s = .fault (.stackOverflow 15)) ∧
      (s.sp.val < 15 → ∃ t, exec (.call nnn) s = .next t ∧
        t.slot s.sp = s.pc ∧ (∀ k, k ≠ s.sp → t.slot k = s.slot k) ∧ t.sp.val = s.sp.val + 1 ∧
        t.pc.toNat = nnn.toNat ∧ UnchangedBut [] [.stackPointer, .slots] s t)

/-- R73, R74, R75, R76. -/
def Obligations.CompareSkipsAdvance : Prop :=
  (∀ (x : Reg) (kk : Byte),
    decodeWord (BitVec.ofNat 16 (0x3000 + x.val * 0x100 + kk.toNat)) = .ok (.seImm x kk) ∧
    decodeWord (BitVec.ofNat 16 (0x4000 + x.val * 0x100 + kk.toNat)) = .ok (.sneImm x kk) ∧
    ∀ s : State,
      (∃ t, exec (.seImm x kk) s = .next t ∧
        t.pc = (if s.reg x = kk then s.pc + 4 else s.pc + 2) ∧ UnchangedBut [] [] s t) ∧
      (∃ t, exec (.sneImm x kk) s = .next t ∧
        t.pc = (if s.reg x ≠ kk then s.pc + 4 else s.pc + 2) ∧ UnchangedBut [] [] s t)) ∧
  (∀ x y : Reg,
    decodeWord (BitVec.ofNat 16 (0x5000 + x.val * 0x100 + y.val * 0x10)) = .ok (.seReg x y) ∧
    decodeWord (BitVec.ofNat 16 (0x9000 + x.val * 0x100 + y.val * 0x10)) = .ok (.sneReg x y) ∧
    (∀ n : Fin 16, n ≠ 0 →
      (∀ i, decodeWord (BitVec.ofNat 16 (0x5000 + x.val * 0x100 + y.val * 0x10 + n.val)) ≠ .ok i) ∧
      (∀ i, decodeWord (BitVec.ofNat 16 (0x9000 + x.val * 0x100 + y.val * 0x10 + n.val)) ≠ .ok i)) ∧
    ∀ s : State,
      (∃ t, exec (.seReg x y) s = .next t ∧
        t.pc = (if s.reg x = s.reg y then s.pc + 4 else s.pc + 2) ∧ UnchangedBut [] [] s t) ∧
      (∃ t, exec (.sneReg x y) s = .next t ∧
        t.pc = (if s.reg x ≠ s.reg y then s.pc + 4 else s.pc + 2) ∧ UnchangedBut [] [] s t))

/-- R78: the sum is not reduced modulo 4096. -/
def Obligations.JumpWithOffset : Prop :=
  ∀ nnn : Addr12,
    decodeWord (BitVec.ofNat 16 (0xB000 + nnn.toNat)) = .ok (.jpV0 nnn) ∧
    ∀ s : State, ∃ t, exec (.jpV0 nnn) s = .next t ∧
      t.pc.toNat = (s.reg 0).toNat + nnn.toNat ∧ UnchangedBut [] [] s t

/-! ### Loads, arithmetic, logic, shifts, random -/

/-- R80, R81. -/
def Obligations.LoadAndAddImmediate : Prop :=
  ∀ (x : Reg) (kk : Byte),
    decodeWord (BitVec.ofNat 16 (0x6000 + x.val * 0x100 + kk.toNat)) = .ok (.ldImm x kk) ∧
    decodeWord (BitVec.ofNat 16 (0x7000 + x.val * 0x100 + kk.toNat)) = .ok (.addImm x kk) ∧
    ∀ s : State,
      (∃ t, exec (.ldImm x kk) s = .next t ∧ t.reg x = kk ∧ t.pc = s.pc + 2 ∧ UnchangedBut [x] [] s t) ∧
      (∃ t, exec (.addImm x kk) s = .next t ∧ (t.reg x).toNat = ((s.reg x).toNat + kk.toNat) % 256 ∧
        t.pc = s.pc + 2 ∧ UnchangedBut [x] [] s t)

/-- R83, R84, R85, R86, bit by bit: no flag is written. -/
def Obligations.CopyAndLogic : Prop :=
  ∀ x y : Reg,
    decodeWord (BitVec.ofNat 16 (0x8000 + x.val * 0x100 + y.val * 0x10)) = .ok (.ldReg x y) ∧
    decodeWord (BitVec.ofNat 16 (0x8001 + x.val * 0x100 + y.val * 0x10)) = .ok (.orReg x y) ∧
    decodeWord (BitVec.ofNat 16 (0x8002 + x.val * 0x100 + y.val * 0x10)) = .ok (.andReg x y) ∧
    decodeWord (BitVec.ofNat 16 (0x8003 + x.val * 0x100 + y.val * 0x10)) = .ok (.xorReg x y) ∧
    ∀ s : State,
      (∃ t, exec (.ldReg x y) s = .next t ∧ t.reg x = s.reg y ∧ t.pc = s.pc + 2 ∧ UnchangedBut [x] [] s t) ∧
      (∃ t, exec (.orReg x y) s = .next t ∧
        (∀ b < 8, (t.reg x).getLsbD b = ((s.reg x).getLsbD b || (s.reg y).getLsbD b)) ∧
        t.pc = s.pc + 2 ∧ UnchangedBut [x] [] s t) ∧
      (∃ t, exec (.andReg x y) s = .next t ∧
        (∀ b < 8, (t.reg x).getLsbD b = ((s.reg x).getLsbD b && (s.reg y).getLsbD b)) ∧
        t.pc = s.pc + 2 ∧ UnchangedBut [x] [] s t) ∧
      (∃ t, exec (.xorReg x y) s = .next t ∧
        (∀ b < 8, (t.reg x).getLsbD b = ((s.reg x).getLsbD b ^^ (s.reg y).getLsbD b)) ∧
        t.pc = s.pc + 2 ∧ UnchangedBut [x] [] s t)

/-- R87: VF ends as the flag, also where it is the destination. -/
def Obligations.AddSetsCarry : Prop :=
  ∀ x y : Reg,
    decodeWord (BitVec.ofNat 16 (0x8004 + x.val * 0x100 + y.val * 0x10)) = .ok (.addReg x y) ∧
    ∀ s : State, ∃ t, exec (.addReg x y) s = .next t ∧
      (x ≠ VF → (t.reg x).toNat = ((s.reg x).toNat + (s.reg y).toNat) % 256) ∧
      t.reg VF = (if (s.reg x).toNat + (s.reg y).toNat > 255 then 1 else 0) ∧
      t.pc = s.pc + 2 ∧ UnchangedBut [x, VF] [] s t

/-- R88: VF is 1 when a borrow occurred. -/
def Obligations.SubtractSetsBorrow : Prop :=
  ∀ x y : Reg,
    decodeWord (BitVec.ofNat 16 (0x8005 + x.val * 0x100 + y.val * 0x10)) = .ok (.sub x y) ∧
    ∀ s : State, ∃ t, exec (.sub x y) s = .next t ∧
      (x ≠ VF → ((t.reg x).toNat : Int) = (((s.reg x).toNat : Int) - ((s.reg y).toNat : Int)) % 256) ∧
      t.reg VF = (if (s.reg y).toNat > (s.reg x).toNat then 1 else 0) ∧
      t.pc = s.pc + 2 ∧ UnchangedBut [x, VF] [] s t

/-- R90. That the result wraps is the spec's own inference ("The result wraps modulo 256 like rule R88", marked derived). -/
def Obligations.ReverseSubtractSetsBorrow : Prop :=
  ∀ x y : Reg,
    decodeWord (BitVec.ofNat 16 (0x8007 + x.val * 0x100 + y.val * 0x10)) = .ok (.subn x y) ∧
    ∀ s : State, ∃ t, exec (.subn x y) s = .next t ∧
      (x ≠ VF → ((t.reg x).toNat : Int) = (((s.reg y).toNat : Int) - ((s.reg x).toNat : Int)) % 256) ∧
      t.reg VF = (if (s.reg x).toNat > (s.reg y).toNat then 1 else 0) ∧
      t.pc = s.pc + 2 ∧ UnchangedBut [x, VF] [] s t

/-- R89, R91: the operand is Vy, the old Vx is no input, VF is the bit shifted out. -/
def Obligations.ShiftsMoveVy : Prop :=
  ∀ x y : Reg,
    decodeWord (BitVec.ofNat 16 (0x8006 + x.val * 0x100 + y.val * 0x10)) = .ok (.shr x y) ∧
    decodeWord (BitVec.ofNat 16 (0x800E + x.val * 0x100 + y.val * 0x10)) = .ok (.shl x y) ∧
    ∀ s : State,
      (∃ t, exec (.shr x y) s = .next t ∧
        (x ≠ VF → (t.reg x).toNat = (s.reg y).toNat / 2) ∧
        (t.reg VF).toNat = (s.reg y).toNat % 2 ∧
        t.pc = s.pc + 2 ∧ UnchangedBut [x, VF] [] s t) ∧
      (∃ t, exec (.shl x y) s = .next t ∧
        (x ≠ VF → (t.reg x).toNat = (s.reg y).toNat * 2 % 256) ∧
        (t.reg VF).toNat = (s.reg y).toNat / 128 ∧
        t.pc = s.pc + 2 ∧ UnchangedBut [x, VF] [] s t)

/-- R93: the cycle's random byte, whatever it is, under the mask. That the byte is the first entry of the model's own `inputs`,
and a free value where that list is empty, is the model's choice (log 5): the statement holds for every value of it. No other
cycle reads it. -/
def Obligations.RandomIsMasked : Prop :=
  (∀ (x : Reg) (kk : Byte),
    decodeWord (BitVec.ofNat 16 (0xC000 + x.val * 0x100 + kk.toNat)) = .ok (.rnd x kk) ∧
    ∀ s : State,
      (∃ t, exec (.rnd x kk) s = .next t ∧ t.reg x = s.rndInput &&& kk ∧ t.pc = s.pc + 2 ∧ UnchangedBut [x] [] s t) ∧
      (∀ c rest, s.inputs = c :: rest → s.rndInput = c.rnd)) ∧
  ∀ (s : State) (tick : Bool) (r : Byte),
    (∀ x kk, s.Fetches (.rnd x kk) →
      (hostStep (.runCycle tick r) s).2 = .ok ∧ (hostStep (.runCycle tick r) s).1.reg x = r &&& kk) ∧
    ((∀ x kk, ¬ s.Fetches (.rnd x kk)) → ∀ r', hostStep (.runCycle tick r) s = hostStep (.runCycle tick r') s)

/-! ### Index register and memory -/

/-- R96, R97: modulo 65536, no flag, no fault. -/
def Obligations.SetAndAddIndex : Prop :=
  (∀ nnn : Addr12,
    decodeWord (BitVec.ofNat 16 (0xA000 + nnn.toNat)) = .ok (.ldI nnn) ∧
    ∀ s : State, ∃ t, exec (.ldI nnn) s = .next t ∧ t.i.toNat = nnn.toNat ∧ t.pc = s.pc + 2 ∧
      UnchangedBut [] [.index] s t) ∧
  (∀ x : Reg,
    decodeWord (BitVec.ofNat 16 (0xF01E + x.val * 0x100)) = .ok (.addI x) ∧
    ∀ s : State, ∃ t, exec (.addI x) s = .next t ∧ t.i.toNat = (s.i.toNat + (s.reg x).toNat) % 65536 ∧
      t.pc = s.pc + 2 ∧ UnchangedBut [] [.index] s t)

/-- R98: the whole byte is the digit, not its low nibble. -/
def Obligations.FontAddress : Prop :=
  ∀ x : Reg,
    decodeWord (BitVec.ofNat 16 (0xF029 + x.val * 0x100)) = .ok (.ldF x) ∧
    ∀ s : State,
      ((s.reg x).toNat > 15 → exec (.ldF x) s = .fault (.invalidFontDigit (s.reg x))) ∧
      ((s.reg x).toNat ≤ 15 → ∃ t, exec (.ldF x) s = .next t ∧ t.i.toNat = 5 * (s.reg x).toNat ∧
        t.pc = s.pc + 2 ∧ UnchangedBut [] [.index] s t)

/-- R99: three digits at `I`, all or nothing. -/
def Obligations.StoreBcd : Prop :=
  ∀ x : Reg,
    decodeWord (BitVec.ofNat 16 (0xF033 + x.val * 0x100)) = .ok (.ldB x) ∧
    ∀ s : State,
      (s.i.toNat + 2 > 4095 → exec (.ldB x) s = .fault (.memOutOfRange (max s.i.toNat 4096))) ∧
      (s.i.toNat + 2 ≤ 4095 → ∃ t, exec (.ldB x) s = .next t ∧
        (t.readByte s.i.toNat).toNat = (s.reg x).toNat / 100 ∧
        (t.readByte (s.i.toNat + 1)).toNat = (s.reg x).toNat / 10 % 10 ∧
        (t.readByte (s.i.toNat + 2)).toNat = (s.reg x).toNat % 10 ∧
        SameBytesOutside s.i.toNat 3 s t ∧ t.pc = s.pc + 2 ∧ UnchangedBut [] [.memory] s t)

/-- R100: V0 to Vx at `I`, all or nothing, `I` kept. -/
def Obligations.BlockStore : Prop :=
  ∀ x : Reg,
    decodeWord (BitVec.ofNat 16 (0xF055 + x.val * 0x100)) = .ok (.stBlock x) ∧
    ∀ s : State,
      (s.i.toNat + x.val > 4095 → exec (.stBlock x) s = .fault (.memOutOfRange (max s.i.toNat 4096))) ∧
      (s.i.toNat + x.val ≤ 4095 → ∃ t, exec (.stBlock x) s = .next t ∧
        (∀ k : Reg, k ≤ x → t.readByte (s.i.toNat + k.val) = s.reg k) ∧
        SameBytesOutside s.i.toNat (x.val + 1) s t ∧ t.pc = s.pc + 2 ∧ UnchangedBut [] [.memory] s t)

/-- R101: V0 to Vx from `I`, all or nothing, `I` and memory kept. -/
def Obligations.BlockLoad : Prop :=
  ∀ x : Reg,
    decodeWord (BitVec.ofNat 16 (0xF065 + x.val * 0x100)) = .ok (.ldBlock x) ∧
    ∀ s : State,
      (s.i.toNat + x.val > 4095 → exec (.ldBlock x) s = .fault (.memOutOfRange (max s.i.toNat 4096))) ∧
      (s.i.toNat + x.val ≤ 4095 → ∃ t, exec (.ldBlock x) s = .next t ∧
        (∀ k : Reg, k ≤ x → t.reg k = s.readByte (s.i.toNat + k.val)) ∧
        (∀ k : Reg, x < k → t.reg k = s.reg k) ∧ t.pc = s.pc + 2 ∧ UnchangedBut (blockRegs x) [] s t)

/-! ### Keypad and timers -/

/-- R108, R109: the tested flag is consumed in every case, the other 15 are kept. -/
def Obligations.KeySkipsConsume : Prop :=
  ∀ x : Reg,
    decodeWord (BitVec.ofNat 16 (0xE09E + x.val * 0x100)) = .ok (.skp x) ∧
    decodeWord (BitVec.ofNat 16 (0xE0A1 + x.val * 0x100)) = .ok (.sknp x) ∧
    ∀ s : State,
      ((s.reg x).toNat > 15 → exec (.skp x) s = .fault (.invalidKeyIndex (s.reg x)) ∧
        exec (.sknp x) s = .fault (.invalidKeyIndex (s.reg x))) ∧
      (∀ k : Fin 16, (s.reg x).toNat = k.val →
        (∃ t, exec (.skp x) s = .next t ∧ t.keyDown k = false ∧ (∀ j, j ≠ k → t.keyDown j = s.keyDown j) ∧
          t.pc = (if s.keyDown k = true then s.pc + 4 else s.pc + 2) ∧ UnchangedBut [] [.keys] s t) ∧
        (∃ t, exec (.sknp x) s = .next t ∧ t.keyDown k = false ∧ (∀ j, j ≠ k → t.keyDown j = s.keyDown j) ∧
          t.pc = (if s.keyDown k = false then s.pc + 4 else s.pc + 2) ∧ UnchangedBut [] [.keys] s t))

/-- R111: a wait with no key is a successful cycle that changes nothing; else the least index wins and all flags clear. -/
def Obligations.WaitForKey : Prop :=
  ∀ x : Reg,
    decodeWord (BitVec.ofNat 16 (0xF00A + x.val * 0x100)) = .ok (.ldVxK x) ∧
    ∀ s : State,
      ((∀ k, s.keyDown k = false) → ∃ t, exec (.ldVxK x) s = .next t ∧ t.pc = s.pc ∧ UnchangedBut [] [] s t) ∧
      (∀ k : Fin 16, s.keyDown k = true → (∀ j, j < k → s.keyDown j = false) →
        ∃ t, exec (.ldVxK x) s = .next t ∧ (t.reg x).toNat = k.val ∧ (∀ j, t.keyDown j = false) ∧
          t.pc = s.pc + 2 ∧ UnchangedBut [x] [.keys] s t)

/-- R110, R112, R113. -/
def Obligations.TimerMoves : Prop :=
  ∀ x : Reg,
    decodeWord (BitVec.ofNat 16 (0xF007 + x.val * 0x100)) = .ok (.ldVxDt x) ∧
    decodeWord (BitVec.ofNat 16 (0xF015 + x.val * 0x100)) = .ok (.ldDtVx x) ∧
    decodeWord (BitVec.ofNat 16 (0xF018 + x.val * 0x100)) = .ok (.ldStVx x) ∧
    ∀ s : State,
      (∃ t, exec (.ldVxDt x) s = .next t ∧ t.reg x = s.dt ∧ t.pc = s.pc + 2 ∧ UnchangedBut [x] [] s t) ∧
      (∃ t, exec (.ldDtVx x) s = .next t ∧ t.dt = s.reg x ∧ t.pc = s.pc + 2 ∧ UnchangedBut [] [.delayTimer] s t) ∧
      (∃ t, exec (.ldStVx x) s = .next t ∧ t.st = s.reg x ∧ t.pc = s.pc + 2 ∧ UnchangedBut [] [.soundTimer] s t)

/-! ### The cycle -/

/-- A step runs the decoded instruction: it is `exec` of it, closed by the timer step where `tick` is 1 (R24, R126), with the
model's record of the cycle's inputs used up; a fault of the instruction is the step's. -/
def Obligations.StepRunsDecodedInstruction : Prop :=
  ∀ (s : State) (i : Instr), s.pc.toNat + 1 ≤ 4095 →
    decodeBytes [s.readByte s.pc.toNat, s.readByte (s.pc.toNat + 1)] = .ok (i, []) → i.wellFormed = true →
    (∀ f, exec i s = .fault f → step s = .fault f) ∧
    (∀ u, exec i s = .next u → ∃ t, step s = .next t ∧
      t.dt.toNat = (if u.tickInput = true then u.dt.toNat - 1 else u.dt.toNat) ∧
      t.st.toNat = (if u.tickInput = true then u.st.toNat - 1 else u.st.toNat) ∧
      t.pc = u.pc ∧ t.inputs = u.inputs.tail ∧ t.cycles = u.cycles + 1 ∧
      UnchangedBut [] [.delayTimer, .soundTimer, .given] u t)

/-- R126, R127: after any successful cycle each timer is one less, stopping at 0, where `tick` is 1, and as the instruction
left it where `tick` is 0; a timer the instruction has just written steps too. -/
def Obligations.TimersStepEveryTick : Prop :=
  ∀ (s : State) (tick : Bool) (rnd : Byte) (i : Instr), s.Fetches i → (hostStep (.runCycle tick rnd) s).2 = .ok →
    let t := (hostStep (.runCycle tick rnd) s).1
    (∀ x, i = .ldDtVx x → t.dt.toNat = if tick = true then (s.reg x).toNat - 1 else (s.reg x).toNat) ∧
    (∀ x, i = .ldStVx x → t.st.toNat = if tick = true then (s.reg x).toNat - 1 else (s.reg x).toNat) ∧
    ((∀ x, i ≠ .ldDtVx x) → t.dt.toNat = if tick = true then s.dt.toNat - 1 else s.dt.toNat) ∧
    ((∀ x, i ≠ .ldStVx x) → t.st.toNat = if tick = true then s.st.toNat - 1 else s.st.toNat)

/-- R36: the fetch faults when either byte is outside memory, never wrapping; else the word is big-endian at PC, odd or even. -/
def Obligations.FetchIsBoundsChecked : Prop :=
  ∀ s : State,
    (4095 < s.pc.toNat + 1 → step s = .fault (.fetchOutOfRange s.pc)) ∧
    (s.pc.toNat + 1 ≤ 4095 → ∀ w : Word,
      w.toNat = (s.readByte s.pc.toNat).toNat * 256 + (s.readByte (s.pc.toNat + 1)).toNat →
      (∀ i, decodeWord w = .ok i → step s = endCycle (exec i s)) ∧
      ((∀ i, decodeWord w ≠ .ok i) → step s = .fault (.illegalInstruction w)))

/-- R120: a cycle faults exactly on the seven conditions of the table, with the code and the `info` it gives. -/
def Obligations.FaultsExactlyAsListed : Prop :=
  (∀ (s : State) (f : Fault), step s = .fault f ↔ FaultCondition s f) ∧
  (∀ pc, Fault.code (.fetchOutOfRange pc) = 1 ∧ Fault.info (.fetchOutOfRange pc) = pc.toNat) ∧
  (∀ w, Fault.code (.illegalInstruction w) = 2 ∧ Fault.info (.illegalInstruction w) = w.toNat) ∧
  (∀ sp, Fault.code (.stackOverflow sp) = 3 ∧ Fault.info (.stackOverflow sp) = sp.val) ∧
  (∀ sp, Fault.code (.stackUnderflow sp) = 4 ∧ Fault.info (.stackUnderflow sp) = sp.val) ∧
  (∀ a, Fault.code (.memOutOfRange a) = 5 ∧ Fault.info (.memOutOfRange a) = a) ∧
  (∀ v, Fault.code (.invalidFontDigit v) = 6 ∧ Fault.info (.invalidFontDigit v) = v.toNat) ∧
  (∀ v, Fault.code (.invalidKeyIndex v) = 7 ∧ Fault.info (.invalidKeyIndex v) = v.toNat)

/-- R121: a failing cycle changes no state at all, and reports the fault's code and `info`; a successful one reports `OK`. -/
def Obligations.FailingCycleChangesNothing : Prop :=
  ∀ (s : State) (tick : Bool) (rnd : Byte),
    (∀ f, step (s.givenInputs tick rnd) = .fault f →
      hostStep (.runCycle tick rnd) s = (s, .failure f.code f.info)) ∧
    (∀ t, step (s.givenInputs tick rnd) = .next t → hostStep (.runCycle tick rnd) s = (t, .ok)) ∧
    ((hostStep (.runCycle tick rnd) s).2 ≠ .ok → (hostStep (.runCycle tick rnd) s).1 = s)

/-- R124: every fault condition is a function of the state alone, not of `tick` or `rnd`, so the same fault comes again. -/
def Obligations.FaultIgnoresInputs : Prop :=
  ∀ (s : State) (f : Fault) (ins : List CycleInput) (c : Nat),
    step s = .fault f → step { s with inputs := ins, cycles := c } = .fault f

/-- No step is refused: every instruction has its meaning. -/
def Obligations.NoStepIsRefused : Prop :=
  ∀ (s : State) (r : Refusal), step s ≠ .refused r

/-! ### Whole-machine rules -/

/-- The frame of every instruction: R11, R12, R14 to R18, R33. Nothing outside the registers and parts it may write changes,
and inside those parts only the stored bytes (at the address `execLdB` and `execStBlock` use), the slot at SP, the tested key
and the touched cells may. -/
def Obligations.InstructionFrame : Prop :=
  ∀ (i : Instr) (s t : State), exec i s = .next t →
    UnchangedBut (writtenRegs i) (writtenParts i) s t ∧ LeavesRest s t i

/-- R11: an instruction that is not one of the six flag writers leaves VF alone unless VF is its destination; the six leave
0 or 1 in it. -/
def Obligations.OnlySixWriteTheFlag : Prop :=
  ∀ (i : Instr) (s t : State), exec i s = .next t →
    (writesFlag i = false → VF ∉ destinations i → t.reg VF = s.reg VF) ∧
    (writesFlag i = true → t.reg VF = 0 ∨ t.reg VF = 1)

/-- R12: `I` is written by three instructions only. -/
def Obligations.OnlyThreeWriteIndex : Prop :=
  ∀ s t : State, step s = .next t → t.i ≠ s.i →
    (∃ nnn, s.Fetches (.ldI nnn)) ∨ (∃ x, s.Fetches (.addI x)) ∨ (∃ x, s.Fetches (.ldF x))

/-- R33, R38: only Store BCD and Block store change memory, and only inside their bytes at `I`, which they leave as it was. -/
def Obligations.OnlyStoresChangeMemory : Prop :=
  ∀ (s t : State) (a : Nat), step s = .next t → t.readByte a ≠ s.readByte a →
    t.i = s.i ∧ s.i.toNat ≤ a ∧ a < 4096 ∧
    ((∃ x, s.Fetches (.ldB x) ∧ a ≤ s.i.toNat + 2) ∨ (∃ x, s.Fetches (.stBlock x) ∧ a ≤ s.i.toNat + x.val))

/-- R14: SP moves by one, up on a Call and down on a Return, and on nothing else; slot 15 is never written. -/
def Obligations.StackMovesByCallAndReturn : Prop :=
  ∀ s t : State, step s = .next t →
    ((∃ nnn, s.Fetches (.call nnn)) → t.sp.val = s.sp.val + 1) ∧
    (s.Fetches .ret → t.sp.val + 1 = s.sp.val) ∧
    ((∀ nnn, ¬ s.Fetches (.call nnn)) → ¬ s.Fetches .ret → t.sp = s.sp) ∧
    (∀ k, t.slot k ≠ s.slot k → k = s.sp ∧ t.slot k = s.pc ∧ ∃ nnn, s.Fetches (.call nnn)) ∧
    t.slot 15 = s.slot 15

/-- R16: the core never sets a key flag, and only the three key instructions clear one. -/
def Obligations.CoreOnlyClearsKeys : Prop :=
  ∀ (s t : State) (k : Fin 16), step s = .next t →
    (t.keyDown k = true → s.keyDown k = true) ∧
    (t.keyDown k ≠ s.keyDown k →
      ∃ x, s.Fetches (.skp x) ∨ s.Fetches (.sknp x) ∨ s.Fetches (.ldVxK x))

/-- R17, R18: the framebuffer changes by Clear display and Draw sprite only, which always raise CH; the core never clears CH. -/
def Obligations.ScreenChangesByClearAndDraw : Prop :=
  ∀ s t : State, step s = .next t →
    (∀ x y, t.pixel x y ≠ s.pixel x y → s.Fetches .cls ∨ ∃ a b n, s.Fetches (.drw a b n)) ∧
    ((s.Fetches .cls ∨ ∃ a b n, s.Fetches (.drw a b n)) → t.ch = true) ∧
    (s.ch = true → t.ch = true) ∧
    (t.ch ≠ s.ch → s.Fetches .cls ∨ ∃ a b n, s.Fetches (.drw a b n))

/-- R25: how each instruction leaves PC. -/
def Obligations.PcUpdateTable : Prop :=
  ∀ (i : Instr) (s t : State), exec i s = .next t → t.pc = pcAfter s i

/-- R14, R15, R18: the sound timer, the changed flag and the stale stack slots are observed by no instruction. From two
states that differ in them alone a cycle faults alike, or goes to two such states again. -/
def Obligations.UnreadStateIsUnobserved : Prop :=
  ∀ s t : State, s.LooksLike t →
    (∀ f, step s = .fault f → step t = .fault f) ∧
    (∀ s', step s = .next s' → ∃ t', step t = .next t' ∧ s'.LooksLike t')

/-! ### Encoding -/

/-- Decode and encode agree on every instruction, every operand at every value (R50 to R59). -/
def Obligations.DecodeOfEncode : Prop :=
  ∀ i : Instr, i.wellFormed = true → decodeWord (encode i) = .ok i ∧ decodeBytes (encodeBytes i) = .ok (i, [])

/-- The other direction: a word that decodes is its instruction's word, so no bit is ignored (R55), and no two words mean
the same instruction. -/
def Obligations.EncodeOfDecode : Prop :=
  ∀ (w : Word) (i : Instr), decodeWord w = .ok i → encode i = w ∧ i.wellFormed = true

/-- R56: a word is an instruction's row exactly when `word AND mask = match`. -/
def Obligations.DecodeIsTheOpcodeMap : Prop :=
  ∀ w : Word,
    (∀ i, decodeWord w = .ok i → w &&& i.opcodeRow.2 = i.opcodeRow.1) ∧
    (∀ i : Instr, w &&& i.opcodeRow.2 = i.opcodeRow.1 →
      ∃ j, decodeWord w = .ok j ∧ j.opcodeRow = i.opcodeRow)

/-- R57: a word that matches no row is illegal, and executing it raises `ILLEGAL_INSTRUCTION` with the word. -/
def Obligations.UnmatchedWordsAreIllegal : Prop :=
  ∀ s : State, s.pc.toNat + 1 ≤ 4095 →
    (∀ i : Instr, s.fetchWord &&& i.opcodeRow.2 ≠ i.opcodeRow.1) →
    step s = .fault (.illegalInstruction s.fetchWord)

/-- Words written out from the spec's encodings, a family each (T-ENC-1 to T-ENC-7). -/
def Obligations.SampleWordsDecode : Prop :=
  decodeWord 0x1234 = .ok (.jp 0x234) ∧
  decodeWord 0xD12F = .ok (.drw 1 2 15) ∧
  decodeWord 0x8AB4 = .ok (.addReg 10 11) ∧
  decodeWord 0xFE65 = .ok (.ldBlock 14) ∧
  decodeWord 0xE0A1 = .ok (.sknp 0) ∧
  decodeWord 0x00E1 = .error (.illegal 0x00E1) ∧
  decodeWord 0x5121 = .error (.illegal 0x5121) ∧
  decodeWord 0x8128 = .error (.illegal 0x8128) ∧
  decodeWord 0xE19F = .error (.illegal 0xE19F) ∧
  decodeWord 0xF075 = .error (.illegal 0xF075)

/-! ### Invariants -/

/-- Every step keeps the invariant, from every state that has it. -/
def Obligations.StepKeepsInvariant : Prop :=
  ∀ s t : State, s.Inv → step s = .next t → t.Inv

/-- Every move of the host keeps the invariant, so every run of moves does (R23, R143). -/
def Obligations.HostMovesKeepInvariant : Prop :=
  ∀ (ms : List HostMove) (s : State), s.Inv → (hostRun ms s).Inv

/-- The state after reset has the invariant. -/
def Obligations.ResetHasInvariant : Prop := State.reset.Inv

/-! ### Round trips of whole instructions -/

/-- E2, R70, R72: a Call and then a Return come back to the instruction after the Call, with SP as before. -/
def Obligations.CallThenReturn : Prop :=
  ∀ (s : State) (nnn : Addr12), s.sp.val < 15 →
    ∃ t u, exec (.call nnn) s = .next t ∧ exec .ret t = .next u ∧ u.pc = s.pc + 2 ∧ u.sp = s.sp ∧
      UnchangedBut [] [.slots] s u

/-- E8, R100, R101: a Block store and then a Block load of the same registers, whatever happened to the registers between,
bring the stored values back. -/
def Obligations.BlockStoreThenLoad : Prop :=
  ∀ (s : State) (x : Reg) (v : Vector Byte 16), s.i.toNat + x.val ≤ 4095 →
    ∃ t u, exec (.stBlock x) s = .next t ∧ exec (.ldBlock x) (t.setRegs v) = .next u ∧
      ∀ k : Reg, k ≤ x → u.reg k = s.reg k

/-- E9, R105: a draw and then the same draw restore the framebuffer whatever it held; the second draw's VF is 1 exactly when
some affected pixel was set after the first. -/
def Obligations.DrawTwiceRestores : Prop :=
  ∀ (s : State) (x y : Reg) (n : Fin 16), x ≠ VF → y ≠ VF → (n.val = 0 ∨ s.i.toNat + n.val - 1 ≤ 4095) →
    ∃ t u, exec (.drw x y n) s = .next t ∧ exec (.drw x y n) t = .next u ∧ u.fb = s.fb ∧
      (u.reg VF = 1 ↔ ∃ px py, s.Touches (s.reg x) (s.reg y) n.val px py ∧ t.pixel px py = true) ∧
      (u.reg VF = 0 ∨ u.reg VF = 1)

/-- R44: what a Block store puts at the next PC is the word the next cycle fetches. -/
def Obligations.StoredBytesAreFetched : Prop :=
  ∀ (s t : State) (x k : Reg), step s = .next t → s.Fetches (.stBlock x) → (h : k.val + 1 ≤ x.val) →
    t.pc.toNat = s.i.toNat + k.val →
    t.fetchWord = s.reg k ++ s.reg ⟨k.val + 1, Nat.lt_of_le_of_lt h x.isLt⟩

/-! ### Reset and the host's moves -/

/-- R22: the values after Initialize; the memory's are the font's (the default table of R34, log 2) and 0. -/
def Obligations.ResetValues : Prop :=
  (∀ r, State.reset.reg r = 0) ∧ State.reset.i = 0 ∧ State.reset.pc = 0x200 ∧ State.reset.sp = 0 ∧
  (∀ k, State.reset.slot k = 0) ∧ State.reset.dt = 0 ∧ State.reset.st = 0 ∧
  (∀ k, State.reset.keyDown k = false) ∧ (∀ x y, State.reset.pixel x y = false) ∧ State.reset.ch = false ∧
  (∀ a < 0x50, State.reset.readByte a = Config.font.getD a 0) ∧
  (∀ a, 0x50 ≤ a → a ≤ 0xFFF → State.reset.readByte a = 0)

/-- R140: Initialize with any font gives the reset values with that font in memory, whatever the state was. -/
def Obligations.InitializeGivesReset : Prop :=
  ∀ (s : State) (font : Vector Byte 80),
    (hostStep (.initializeAll font) s).2 = .ok ∧
    let t := (hostStep (.initializeAll font) s).1
    (∀ a : Fin 80, t.readByte a.val = font[a]) ∧ (∀ a, 0x50 ≤ a → a ≤ 0xFFF → t.readByte a = 0) ∧
    t.pc = 0x200 ∧ UnchangedBut [] [.memory, .given] State.reset t

/-- R141: too long an image fails with code 8 and writes nothing; any other is copied from 0x200 and nothing else changes. -/
def Obligations.LoadProgramCopies : Prop :=
  ∀ (s : State) (image : List Byte),
    (image.length > 3584 → hostStep (.loadProgram image) s = (s, .failure 8 image.length)) ∧
    (image.length ≤ 3584 →
      (hostStep (.loadProgram image) s).2 = .ok ∧
      let t := (hostStep (.loadProgram image) s).1
      (∀ (k : Nat) (h : k < image.length), t.readByte (0x200 + k) = image[k]) ∧
      SameBytesOutside 0x200 image.length s t ∧ t.pc = s.pc ∧ UnchangedBut [] [.memory] s t)

/-- R132: one flag set, nothing else; setting it again changes nothing. -/
def Obligations.InjectKeySetsOneFlag : Prop :=
  ∀ (s : State) (k : Fin 16),
    let t := (hostStep (.injectKey k) s).1
    t.keyDown k = true ∧ (∀ j, j ≠ k → t.keyDown j = s.keyDown j) ∧ t.pc = s.pc ∧ UnchangedBut [] [.keys] s t ∧
    (s.keyDown k = true → t = s)

/-- R133: 2048 cells, linear index `x + 64 * y`, and nothing changes. -/
def Obligations.ReadFramebufferIsRowMajor : Prop :=
  ∀ s : State, ∃ cells : List Bool, hostStep .readFramebuffer s = (s, .cells cells) ∧ cells.length = 2048 ∧
    ∀ (x : Fin 64) (y : Fin 32), cells[x.val + y.val * 64]? = some (s.pixel x y)

/-- R134: reading gives CH and changes nothing; clearing makes it false and changes nothing else. -/
def Obligations.ChangedFlagMoves : Prop :=
  ∀ s : State,
    hostStep .readChanged s = (s, .changed s.ch) ∧
    (let t := (hostStep .clearChanged s).1
     t.ch = false ∧ t.pc = s.pc ∧ UnchangedBut [] [.changed] s t) ∧
    ∀ m : HostMove, s.ch = false → (hostStep m s).1.ch = true → ∃ tick rnd, m = .runCycle tick rnd

/-- R142: a machine initialized but not loaded faults on its first cycle, on word 0. -/
def Obligations.UnloadedMachineFaults : Prop :=
  ∀ tick rnd, hostStep (.runCycle tick rnd) State.reset = (State.reset, .failure 2 0)

/-- R143: once `PC = a` holds `JP a`, a cycle leaves all state unchanged but for the timers. -/
def Obligations.JumpToSelfStays : Prop :=
  ∀ (s : State) (a : Addr12) (tick : Bool) (rnd : Byte), s.pc.toNat = a.toNat → s.Fetches (.jp a) →
    (hostStep (.runCycle tick rnd) s).2 = .ok ∧
    (hostStep (.runCycle tick rnd) s).1.pc = s.pc ∧
    (hostStep (.runCycle tick rnd) s).1.mem = s.mem ∧
    UnchangedBut [] [.delayTimer, .soundTimer, .given] s (hostStep (.runCycle tick rnd) s).1
end

