-- ==== Sys2Proof/Laws/Decode.lean ====
section
/-! SUPPORT. What each field reads from a word, as arithmetic on the word's value, and from a word of each format. -/

namespace Sys2Proof

/-- A word of an in-range number has that number as its value. -/
theorem toNat_ofNat_word {k : Nat} (h : k < 65536) : (BitVec.ofNat 16 k : Word).toNat = k := by
  simp [BitVec.toNat_ofNat, Nat.mod_eq_of_lt h]

theorem fieldClass_eq (w : Word) : fieldClass w = w.toNat / 4096 := by
  have := w.isLt
  simp only [fieldClass, BitVec.extractLsb'_toNat, Nat.shiftRight_eq_div_pow]
  omega

theorem fieldX_val (w : Word) : (fieldX w).val = w.toNat / 256 % 16 := by
  have h : (fieldX w).val = (w.extractLsb' 8 4).toNat := rfl
  rw [h, BitVec.extractLsb'_toNat, Nat.shiftRight_eq_div_pow]

theorem fieldY_val (w : Word) : (fieldY w).val = w.toNat / 16 % 16 := by
  have h : (fieldY w).val = (w.extractLsb' 4 4).toNat := rfl
  rw [h, BitVec.extractLsb'_toNat, Nat.shiftRight_eq_div_pow]

theorem fieldN_val (w : Word) : (fieldN w).val = w.toNat % 16 := by
  have h : (fieldN w).val = (w.extractLsb' 0 4).toNat := rfl
  rw [h, BitVec.extractLsb'_toNat, Nat.shiftRight_eq_div_pow]
  omega

theorem fieldKk_toNat (w : Word) : (fieldKk w).toNat = w.toNat % 256 := by
  simp only [fieldKk, BitVec.extractLsb'_toNat, Nat.shiftRight_eq_div_pow]
  omega

theorem fieldNnn_toNat (w : Word) : (fieldNnn w).toNat = w.toNat % 4096 := by
  simp only [fieldNnn, BitVec.extractLsb'_toNat, Nat.shiftRight_eq_div_pow]
  omega

/-! ### Words of format NNN -/

theorem formNnn_toNat {c : Nat} (hc : c < 16) (nnn : Addr12) : (formNnn c nnn).toNat = c * 4096 + nnn.toNat :=
  toNat_ofNat_word (by have := nnn.isLt; omega)

theorem fieldClass_formNnn {c : Nat} (hc : c < 16) (nnn : Addr12) : fieldClass (formNnn c nnn) = c := by
  have := nnn.isLt
  rw [fieldClass_eq, formNnn_toNat hc]
  omega

theorem fieldNnn_formNnn {c : Nat} (hc : c < 16) (nnn : Addr12) : fieldNnn (formNnn c nnn) = nnn := by
  have := nnn.isLt
  apply BitVec.eq_of_toNat_eq
  rw [fieldNnn_toNat, formNnn_toNat hc]
  omega

/-! ### Words of format XKK (and X) -/

theorem formXkk_toNat {c : Nat} (hc : c < 16) (x : Reg) (kk : Byte) :
    (formXkk c x kk).toNat = c * 4096 + x.val * 256 + kk.toNat :=
  toNat_ofNat_word (by have := kk.isLt; have := x.isLt; omega)

theorem fieldClass_formXkk {c : Nat} (hc : c < 16) (x : Reg) (kk : Byte) : fieldClass (formXkk c x kk) = c := by
  have := kk.isLt
  have := x.isLt
  rw [fieldClass_eq, formXkk_toNat hc]
  omega

theorem fieldX_formXkk {c : Nat} (hc : c < 16) (x : Reg) (kk : Byte) : fieldX (formXkk c x kk) = x := by
  have := kk.isLt
  have := x.isLt
  apply Fin.ext
  rw [fieldX_val, formXkk_toNat hc]
  omega

theorem fieldKk_formXkk {c : Nat} (hc : c < 16) (x : Reg) (kk : Byte) : fieldKk (formXkk c x kk) = kk := by
  have := kk.isLt
  have := x.isLt
  apply BitVec.eq_of_toNat_eq
  rw [fieldKk_toNat, formXkk_toNat hc]
  omega

/-! ### Words of format XYN (and XY) -/

theorem formXyn_toNat {c : Nat} (hc : c < 16) (x y : Reg) (n : Fin 16) :
    (formXyn c x y n).toNat = c * 4096 + x.val * 256 + y.val * 16 + n.val :=
  toNat_ofNat_word (by have := x.isLt; have := y.isLt; have := n.isLt; omega)

theorem fieldClass_formXyn {c : Nat} (hc : c < 16) (x y : Reg) (n : Fin 16) : fieldClass (formXyn c x y n) = c := by
  have := x.isLt
  have := y.isLt
  have := n.isLt
  rw [fieldClass_eq, formXyn_toNat hc]
  omega

theorem fieldX_formXyn {c : Nat} (hc : c < 16) (x y : Reg) (n : Fin 16) : fieldX (formXyn c x y n) = x := by
  have := x.isLt
  have := y.isLt
  have := n.isLt
  apply Fin.ext
  rw [fieldX_val, formXyn_toNat hc]
  omega

theorem fieldY_formXyn {c : Nat} (hc : c < 16) (x y : Reg) (n : Fin 16) : fieldY (formXyn c x y n) = y := by
  have := x.isLt
  have := y.isLt
  have := n.isLt
  apply Fin.ext
  rw [fieldY_val, formXyn_toNat hc]
  omega

theorem fieldN_formXyn {c : Nat} (hc : c < 16) (x y : Reg) (n : Fin 16) : fieldN (formXyn c x y n) = n := by
  have := x.isLt
  have := y.isLt
  have := n.isLt
  apply Fin.ext
  rw [fieldN_val, formXyn_toNat hc]
  omega

/-! ### Bytes of a word -/

/-- A word is its two bytes, the high one first (R35). -/
theorem wordOfBytes_bytes (w : Word) : wordOfBytes (highByte w) (lowByte w) = w := by
  unfold wordOfBytes highByte lowByte
  apply BitVec.eq_of_toNat_eq
  have := w.isLt
  simp only [BitVec.toNat_append, BitVec.extractLsb'_toNat, Nat.shiftRight_eq_div_pow]
  rw [← Nat.shiftLeft_add_eq_or_of_lt (by omega), Nat.shiftLeft_eq]
  omega

/-- The decoder on the two bytes of a word is the decoder on the word. -/
theorem decodeBytes_word (w : Word) (rest : List Byte) :
    decodeBytes (highByte w :: lowByte w :: rest) = (decodeWord w).map (fun i => (i, rest)) := by
  simp only [decodeBytes, wordOfBytes_bytes]
  cases decodeWord w <;> rfl

end Sys2Proof
end

