-- ==== Sys2Proof/Laws/Memory.lean ====
section
/-! SUPPORT. The laws of memory: a read after a write, the frame of a write, and the canonical form kept. -/

namespace Sys2Proof.Machine

/-- Dropping the entries of one address makes it read as unlisted. -/
theorem Memory.read_filter_self (m : Memory) (a : Nat) :
    Memory.read (m.filter (fun c => c.1 != a)) a = Memory.unlisted a := by
  induction m with
  | nil => rfl
  | cons c m ih =>
    by_cases h : c.1 = a
    · simpa [List.filter_cons, h] using ih
    · simpa [List.filter_cons, h, Memory.read] using ih

/-- Dropping the entries of one address leaves every other address as it read. -/
theorem Memory.read_filter_ne (m : Memory) {a a' : Nat} (h : a' ≠ a) :
    Memory.read (m.filter (fun c => c.1 != a)) a' = Memory.read m a' := by
  induction m with
  | nil => rfl
  | cons c m ih =>
    by_cases hc : c.1 = a
    · have : ¬ a = a' := fun e => h e.symm
      simp [hc, Memory.read, ih, this]
    · simp [hc, Memory.read, ih]

/-- Reading after a cell is put in its place, where no other cell has its address. -/
theorem Memory.read_insertCell (c : Host.Cell) (m : Memory) (h : ∀ d ∈ m, d.1 ≠ c.1) (a : Nat) :
    Memory.read (Memory.insertCell c m) a = if c.1 = a then c.2 else Memory.read m a := by
  induction m with
  | nil => rfl
  | cons d m ih =>
    have hd : d.1 ≠ c.1 := h d (by simp)
    have ih' := ih (fun e he => h e (by simp [he]))
    unfold Memory.insertCell
    split
    · rfl
    · by_cases e : c.1 = a
      · subst e
        simp [Memory.read, hd, ih']
      · simp [Memory.read, e, ih']

/-- A read after a write: the written byte at its address, every other address as before. -/
theorem Memory.read_write (m : Memory) (a : Nat) (b : Byte) (a' : Nat) :
    (m.write a b).read a' = if a = a' then b else m.read a' := by
  unfold Memory.write
  by_cases e : a = a'
  · subst e
    split
    · next hb => simp [Memory.read_filter_self, hb]
    · rw [Memory.read_insertCell _ _ (by simp)]
      simp
  · have e' : a' ≠ a := fun h => e h.symm
    split
    · simp [Memory.read_filter_ne m e']
    · rw [Memory.read_insertCell _ _ (by simp)]
      simp [Memory.read_filter_ne m e', e]

/-- The canonical form, one cell at a time. -/
theorem Memory.wf_cons (c : Host.Cell) (m : Memory) :
    Memory.wf (c :: m) = true ↔
      c.1 < 4096 ∧ c.2 ≠ Memory.unlisted c.1 ∧ (∀ d ∈ m, c.1 < d.1) ∧ Memory.wf m = true := by
  simp [Memory.wf, Config.memSize, List.all_eq_true, and_assoc]

/-- Dropping entries keeps the canonical form. -/
theorem Memory.wf_filter (m : Memory) (p : Host.Cell → Bool) (h : Memory.wf m = true) :
    Memory.wf (m.filter p) = true := by
  induction m with
  | nil => rfl
  | cons c m ih =>
    obtain ⟨h1, h2, h3, h4⟩ := (Memory.wf_cons c m).1 h
    by_cases hp : p c = true
    · rw [List.filter_cons_of_pos hp, Memory.wf_cons]
      exact ⟨h1, h2, fun d hd => h3 d (List.mem_of_mem_filter hd), ih h4⟩
    · rw [List.filter_cons_of_neg hp]
      exact ih h4

/-- The cells of a memory into which one cell was put. -/
theorem Memory.mem_insertCell (c d : Host.Cell) (m : Memory) :
    d ∈ Memory.insertCell c m ↔ d = c ∨ d ∈ m := by
  induction m with
  | nil => simp [Memory.insertCell]
  | cons e m ih =>
    unfold Memory.insertCell
    split
    · simp
    · simp only [List.mem_cons, ih]
      tauto

/-- Putting a cell of a new address in its place keeps the canonical form. -/
theorem Memory.wf_insertCell (c : Host.Cell) (m : Memory) (h : Memory.wf m = true) (hc : c.1 < 4096)
    (hb : c.2 ≠ Memory.unlisted c.1) (hn : ∀ d ∈ m, d.1 ≠ c.1) : Memory.wf (Memory.insertCell c m) = true := by
  induction m with
  | nil => simp [Memory.insertCell, hc, hb, Memory.wf]
  | cons e m ih =>
    obtain ⟨h1, h2, h3, h4⟩ := (Memory.wf_cons e m).1 h
    have he : e.1 ≠ c.1 := hn e (by simp)
    unfold Memory.insertCell
    split
    · next hlt =>
      rw [Memory.wf_cons]
      refine ⟨hc, hb, fun d hd => ?_, h⟩
      rcases List.mem_cons.1 hd with rfl | hd
      · exact hlt
      · exact lt_trans hlt (h3 d hd)
    · next hlt =>
      rw [Memory.wf_cons]
      refine ⟨h1, h2, fun d hd => ?_, ih h4 (fun d hd => hn d (by simp [hd]))⟩
      rcases (Memory.mem_insertCell c d m).1 hd with rfl | hd
      · omega
      · exact h3 d hd

/-- A write to an existing address keeps the canonical form. -/
theorem Memory.wf_write (m : Memory) (a : Nat) (b : Byte) (h : Memory.wf m = true) (ha : a < 4096) :
    Memory.wf (m.write a b) = true := by
  unfold Memory.write
  split
  · exact Memory.wf_filter m _ h
  · next hb => exact Memory.wf_insertCell _ _ (Memory.wf_filter m _ h) ha hb (by simp)

/-- A read after a block of writes: the block's byte inside it, every other address as before. -/
theorem Memory.read_writeBytes (bs : List Byte) (m : Memory) (a a' : Nat) :
    (m.writeBytes a bs).read a' =
      if a ≤ a' ∧ a' < a + bs.length then bs.getD (a' - a) 0 else m.read a' := by
  induction bs generalizing m a with
  | nil =>
    have : ¬ (a ≤ a' ∧ a' < a + 0) := by omega
    simp only [Memory.writeBytes, List.length_nil, this, if_false]
  | cons b bs ih =>
    rw [Memory.writeBytes, ih, Memory.read_write]
    by_cases e : a = a'
    · subst e
      simp
    · by_cases hin : a + 1 ≤ a' ∧ a' < a + 1 + bs.length
      · have h2 : a ≤ a' ∧ a' < a + (b :: bs).length := by simp only [List.length_cons]; omega
        obtain ⟨k, hk⟩ : ∃ k, a' = a + 1 + k := ⟨a' - (a + 1), by omega⟩
        subst hk
        have e1 : a + 1 + k - a = k + 1 := by omega
        have e2 : a + 1 + k - (a + 1) = k := by omega
        rw [if_pos hin, if_pos h2, e1, e2, List.getD_cons_succ]
      · have h2 : ¬ (a ≤ a' ∧ a' < a + (b :: bs).length) := by simp only [List.length_cons]; omega
        rw [if_neg hin, if_neg h2, if_neg e]

/-- A block of writes inside memory keeps the canonical form. -/
theorem Memory.wf_writeBytes (bs : List Byte) (m : Memory) (a : Nat) (h : Memory.wf m = true)
    (ha : a + bs.length ≤ 4096) : Memory.wf (m.writeBytes a bs) = true := by
  induction bs generalizing m a with
  | nil => exact h
  | cons b bs ih =>
    simp only [List.length_cons] at ha
    exact ih (m.write a b) (a + 1) (Memory.wf_write m a b h (by omega)) (by omega)

/-- A transfer reads as many bytes as it asks for. -/
@[simp] theorem Memory.length_readBytes (m : Memory) (a n : Nat) : (m.readBytes a n).length = n := by
  induction n generalizing a with
  | zero => rfl
  | succ n ih => simp [Memory.readBytes, ih]

/-- Byte `k` of a transfer is the byte at its address plus `k` (R38). -/
theorem Memory.getElem_readBytes (m : Memory) (a n k : Nat) (h : k < (m.readBytes a n).length) :
    (m.readBytes a n)[k] = m.read (a + k) := by
  induction n generalizing a k with
  | zero => simp [Memory.readBytes] at h
  | succ n ih =>
    cases k with
    | zero => rfl
    | succ k =>
      simp only [Memory.readBytes, List.getElem_cons_succ]
      rw [ih]
      congr 1
      omega

/-- Byte `k` of a transfer, read with a default that is not needed. -/
theorem Memory.getD_readBytes (m : Memory) (a : Nat) {n k : Nat} (h : k < n) :
    (m.readBytes a n).getD k 0 = m.read (a + k) := by
  have hk : k < (m.readBytes a n).length := by simpa using h
  rw [List.getD_eq_getElem _ _ hk, Memory.getElem_readBytes]

/-- What the bounds check passes: an empty transfer, or one that ends inside memory (R39). -/
theorem boundsCheck_eq_none {a n : Nat} : boundsCheck a n = none ↔ n = 0 ∨ a + n ≤ 4096 := by
  unfold boundsCheck
  split <;> simp <;> omega

/-- What the bounds check raises (R39). -/
theorem boundsCheck_eq_some {a n : Nat} {f : Fault} :
    boundsCheck a n = some f ↔ (0 < n ∧ 4096 < a + n) ∧ f = .memOutOfRange (max a 4096) := by
  unfold boundsCheck
  split
  · next h =>
    have : 0 < n ∧ 4096 < a + n := by omega
    simp [this, eq_comm]
  · next h =>
    have : ¬ (0 < n ∧ 4096 < a + n) := by omega
    simp [this]

end Sys2Proof.Machine
end

