-- ==== Sys2Proof/Laws/State.lean ====
section
/-! SUPPORT. What each update of the state leaves in each field: one lemma per field per update, all true by unfolding the
record update, so that no proof does it again. -/

namespace Sys2Proof.Machine

/-! ### setReg -/

@[simp] theorem State.setReg_v (s : State) (r : Reg) (b : Byte) : (s.setReg r b).v = s.v.set r b := rfl
@[simp] theorem State.setReg_i (s : State) (r : Reg) (b : Byte) : (s.setReg r b).i = s.i := rfl
@[simp] theorem State.setReg_pc (s : State) (r : Reg) (b : Byte) : (s.setReg r b).pc = s.pc := rfl
@[simp] theorem State.setReg_sp (s : State) (r : Reg) (b : Byte) : (s.setReg r b).sp = s.sp := rfl
@[simp] theorem State.setReg_stack (s : State) (r : Reg) (b : Byte) : (s.setReg r b).stack = s.stack := rfl
@[simp] theorem State.setReg_dt (s : State) (r : Reg) (b : Byte) : (s.setReg r b).dt = s.dt := rfl
@[simp] theorem State.setReg_st (s : State) (r : Reg) (b : Byte) : (s.setReg r b).st = s.st := rfl
@[simp] theorem State.setReg_key (s : State) (r : Reg) (b : Byte) : (s.setReg r b).key = s.key := rfl
@[simp] theorem State.setReg_fb (s : State) (r : Reg) (b : Byte) : (s.setReg r b).fb = s.fb := rfl
@[simp] theorem State.setReg_ch (s : State) (r : Reg) (b : Byte) : (s.setReg r b).ch = s.ch := rfl
@[simp] theorem State.setReg_mem (s : State) (r : Reg) (b : Byte) : (s.setReg r b).mem = s.mem := rfl
@[simp] theorem State.setReg_inputs (s : State) (r : Reg) (b : Byte) : (s.setReg r b).inputs = s.inputs := rfl
@[simp] theorem State.setReg_cycles (s : State) (r : Reg) (b : Byte) : (s.setReg r b).cycles = s.cycles := rfl

/-! ### setRegs -/

@[simp] theorem State.setRegs_v (s : State) (w : Vector Byte 16) : (s.setRegs w).v = w := rfl
@[simp] theorem State.setRegs_i (s : State) (w : Vector Byte 16) : (s.setRegs w).i = s.i := rfl
@[simp] theorem State.setRegs_pc (s : State) (w : Vector Byte 16) : (s.setRegs w).pc = s.pc := rfl
@[simp] theorem State.setRegs_sp (s : State) (w : Vector Byte 16) : (s.setRegs w).sp = s.sp := rfl
@[simp] theorem State.setRegs_stack (s : State) (w : Vector Byte 16) : (s.setRegs w).stack = s.stack := rfl
@[simp] theorem State.setRegs_dt (s : State) (w : Vector Byte 16) : (s.setRegs w).dt = s.dt := rfl
@[simp] theorem State.setRegs_st (s : State) (w : Vector Byte 16) : (s.setRegs w).st = s.st := rfl
@[simp] theorem State.setRegs_key (s : State) (w : Vector Byte 16) : (s.setRegs w).key = s.key := rfl
@[simp] theorem State.setRegs_fb (s : State) (w : Vector Byte 16) : (s.setRegs w).fb = s.fb := rfl
@[simp] theorem State.setRegs_ch (s : State) (w : Vector Byte 16) : (s.setRegs w).ch = s.ch := rfl
@[simp] theorem State.setRegs_mem (s : State) (w : Vector Byte 16) : (s.setRegs w).mem = s.mem := rfl
@[simp] theorem State.setRegs_inputs (s : State) (w : Vector Byte 16) : (s.setRegs w).inputs = s.inputs := rfl
@[simp] theorem State.setRegs_cycles (s : State) (w : Vector Byte 16) : (s.setRegs w).cycles = s.cycles := rfl

/-! ### setI -/

@[simp] theorem State.setI_v (s : State) (w : Word) : (s.setI w).v = s.v := rfl
@[simp] theorem State.setI_i (s : State) (w : Word) : (s.setI w).i = w := rfl
@[simp] theorem State.setI_pc (s : State) (w : Word) : (s.setI w).pc = s.pc := rfl
@[simp] theorem State.setI_sp (s : State) (w : Word) : (s.setI w).sp = s.sp := rfl
@[simp] theorem State.setI_stack (s : State) (w : Word) : (s.setI w).stack = s.stack := rfl
@[simp] theorem State.setI_dt (s : State) (w : Word) : (s.setI w).dt = s.dt := rfl
@[simp] theorem State.setI_st (s : State) (w : Word) : (s.setI w).st = s.st := rfl
@[simp] theorem State.setI_key (s : State) (w : Word) : (s.setI w).key = s.key := rfl
@[simp] theorem State.setI_fb (s : State) (w : Word) : (s.setI w).fb = s.fb := rfl
@[simp] theorem State.setI_ch (s : State) (w : Word) : (s.setI w).ch = s.ch := rfl
@[simp] theorem State.setI_mem (s : State) (w : Word) : (s.setI w).mem = s.mem := rfl
@[simp] theorem State.setI_inputs (s : State) (w : Word) : (s.setI w).inputs = s.inputs := rfl
@[simp] theorem State.setI_cycles (s : State) (w : Word) : (s.setI w).cycles = s.cycles := rfl

/-! ### setPc -/

@[simp] theorem State.setPc_v (s : State) (w : Word) : (s.setPc w).v = s.v := rfl
@[simp] theorem State.setPc_i (s : State) (w : Word) : (s.setPc w).i = s.i := rfl
@[simp] theorem State.setPc_pc (s : State) (w : Word) : (s.setPc w).pc = w := rfl
@[simp] theorem State.setPc_sp (s : State) (w : Word) : (s.setPc w).sp = s.sp := rfl
@[simp] theorem State.setPc_stack (s : State) (w : Word) : (s.setPc w).stack = s.stack := rfl
@[simp] theorem State.setPc_dt (s : State) (w : Word) : (s.setPc w).dt = s.dt := rfl
@[simp] theorem State.setPc_st (s : State) (w : Word) : (s.setPc w).st = s.st := rfl
@[simp] theorem State.setPc_key (s : State) (w : Word) : (s.setPc w).key = s.key := rfl
@[simp] theorem State.setPc_fb (s : State) (w : Word) : (s.setPc w).fb = s.fb := rfl
@[simp] theorem State.setPc_ch (s : State) (w : Word) : (s.setPc w).ch = s.ch := rfl
@[simp] theorem State.setPc_mem (s : State) (w : Word) : (s.setPc w).mem = s.mem := rfl
@[simp] theorem State.setPc_inputs (s : State) (w : Word) : (s.setPc w).inputs = s.inputs := rfl
@[simp] theorem State.setPc_cycles (s : State) (w : Word) : (s.setPc w).cycles = s.cycles := rfl

/-! ### advance -/

@[simp] theorem State.advance_v (s : State) : (s.advance).v = s.v := rfl
@[simp] theorem State.advance_i (s : State) : (s.advance).i = s.i := rfl
@[simp] theorem State.advance_pc (s : State) : (s.advance).pc = s.pc + 2 := rfl
@[simp] theorem State.advance_sp (s : State) : (s.advance).sp = s.sp := rfl
@[simp] theorem State.advance_stack (s : State) : (s.advance).stack = s.stack := rfl
@[simp] theorem State.advance_dt (s : State) : (s.advance).dt = s.dt := rfl
@[simp] theorem State.advance_st (s : State) : (s.advance).st = s.st := rfl
@[simp] theorem State.advance_key (s : State) : (s.advance).key = s.key := rfl
@[simp] theorem State.advance_fb (s : State) : (s.advance).fb = s.fb := rfl
@[simp] theorem State.advance_ch (s : State) : (s.advance).ch = s.ch := rfl
@[simp] theorem State.advance_mem (s : State) : (s.advance).mem = s.mem := rfl
@[simp] theorem State.advance_inputs (s : State) : (s.advance).inputs = s.inputs := rfl
@[simp] theorem State.advance_cycles (s : State) : (s.advance).cycles = s.cycles := rfl

/-! ### skipIf -/

@[simp] theorem State.skipIf_v (s : State) (c : Bool) : (s.skipIf c).v = s.v := rfl
@[simp] theorem State.skipIf_i (s : State) (c : Bool) : (s.skipIf c).i = s.i := rfl
@[simp] theorem State.skipIf_pc (s : State) (c : Bool) : (s.skipIf c).pc = if c then s.pc + 4 else s.pc + 2 := rfl
@[simp] theorem State.skipIf_sp (s : State) (c : Bool) : (s.skipIf c).sp = s.sp := rfl
@[simp] theorem State.skipIf_stack (s : State) (c : Bool) : (s.skipIf c).stack = s.stack := rfl
@[simp] theorem State.skipIf_dt (s : State) (c : Bool) : (s.skipIf c).dt = s.dt := rfl
@[simp] theorem State.skipIf_st (s : State) (c : Bool) : (s.skipIf c).st = s.st := rfl
@[simp] theorem State.skipIf_key (s : State) (c : Bool) : (s.skipIf c).key = s.key := rfl
@[simp] theorem State.skipIf_fb (s : State) (c : Bool) : (s.skipIf c).fb = s.fb := rfl
@[simp] theorem State.skipIf_ch (s : State) (c : Bool) : (s.skipIf c).ch = s.ch := rfl
@[simp] theorem State.skipIf_mem (s : State) (c : Bool) : (s.skipIf c).mem = s.mem := rfl
@[simp] theorem State.skipIf_inputs (s : State) (c : Bool) : (s.skipIf c).inputs = s.inputs := rfl
@[simp] theorem State.skipIf_cycles (s : State) (c : Bool) : (s.skipIf c).cycles = s.cycles := rfl

/-! ### setMem -/

@[simp] theorem State.setMem_v (s : State) (m : Memory) : (s.setMem m).v = s.v := rfl
@[simp] theorem State.setMem_i (s : State) (m : Memory) : (s.setMem m).i = s.i := rfl
@[simp] theorem State.setMem_pc (s : State) (m : Memory) : (s.setMem m).pc = s.pc := rfl
@[simp] theorem State.setMem_sp (s : State) (m : Memory) : (s.setMem m).sp = s.sp := rfl
@[simp] theorem State.setMem_stack (s : State) (m : Memory) : (s.setMem m).stack = s.stack := rfl
@[simp] theorem State.setMem_dt (s : State) (m : Memory) : (s.setMem m).dt = s.dt := rfl
@[simp] theorem State.setMem_st (s : State) (m : Memory) : (s.setMem m).st = s.st := rfl
@[simp] theorem State.setMem_key (s : State) (m : Memory) : (s.setMem m).key = s.key := rfl
@[simp] theorem State.setMem_fb (s : State) (m : Memory) : (s.setMem m).fb = s.fb := rfl
@[simp] theorem State.setMem_ch (s : State) (m : Memory) : (s.setMem m).ch = s.ch := rfl
@[simp] theorem State.setMem_mem (s : State) (m : Memory) : (s.setMem m).mem = m := rfl
@[simp] theorem State.setMem_inputs (s : State) (m : Memory) : (s.setMem m).inputs = s.inputs := rfl
@[simp] theorem State.setMem_cycles (s : State) (m : Memory) : (s.setMem m).cycles = s.cycles := rfl

/-! ### storeBytes -/

@[simp] theorem State.storeBytes_v (s : State) (a : Nat) (bs : List Byte) : (s.storeBytes a bs).v = s.v := rfl
@[simp] theorem State.storeBytes_i (s : State) (a : Nat) (bs : List Byte) : (s.storeBytes a bs).i = s.i := rfl
@[simp] theorem State.storeBytes_pc (s : State) (a : Nat) (bs : List Byte) : (s.storeBytes a bs).pc = s.pc := rfl
@[simp] theorem State.storeBytes_sp (s : State) (a : Nat) (bs : List Byte) : (s.storeBytes a bs).sp = s.sp := rfl
@[simp] theorem State.storeBytes_stack (s : State) (a : Nat) (bs : List Byte) : (s.storeBytes a bs).stack = s.stack := rfl
@[simp] theorem State.storeBytes_dt (s : State) (a : Nat) (bs : List Byte) : (s.storeBytes a bs).dt = s.dt := rfl
@[simp] theorem State.storeBytes_st (s : State) (a : Nat) (bs : List Byte) : (s.storeBytes a bs).st = s.st := rfl
@[simp] theorem State.storeBytes_key (s : State) (a : Nat) (bs : List Byte) : (s.storeBytes a bs).key = s.key := rfl
@[simp] theorem State.storeBytes_fb (s : State) (a : Nat) (bs : List Byte) : (s.storeBytes a bs).fb = s.fb := rfl
@[simp] theorem State.storeBytes_ch (s : State) (a : Nat) (bs : List Byte) : (s.storeBytes a bs).ch = s.ch := rfl
@[simp] theorem State.storeBytes_mem (s : State) (a : Nat) (bs : List Byte) : (s.storeBytes a bs).mem = s.mem.writeBytes a bs := rfl
@[simp] theorem State.storeBytes_inputs (s : State) (a : Nat) (bs : List Byte) : (s.storeBytes a bs).inputs = s.inputs := rfl
@[simp] theorem State.storeBytes_cycles (s : State) (a : Nat) (bs : List Byte) : (s.storeBytes a bs).cycles = s.cycles := rfl

/-! ### push -/

@[simp] theorem State.push_v (s : State) (w : Word) : (s.push w).v = s.v := rfl
@[simp] theorem State.push_i (s : State) (w : Word) : (s.push w).i = s.i := rfl
@[simp] theorem State.push_pc (s : State) (w : Word) : (s.push w).pc = s.pc := rfl
@[simp] theorem State.push_sp (s : State) (w : Word) : (s.push w).sp = s.sp + 1 := rfl
@[simp] theorem State.push_stack (s : State) (w : Word) : (s.push w).stack = s.stack.set s.sp w := rfl
@[simp] theorem State.push_dt (s : State) (w : Word) : (s.push w).dt = s.dt := rfl
@[simp] theorem State.push_st (s : State) (w : Word) : (s.push w).st = s.st := rfl
@[simp] theorem State.push_key (s : State) (w : Word) : (s.push w).key = s.key := rfl
@[simp] theorem State.push_fb (s : State) (w : Word) : (s.push w).fb = s.fb := rfl
@[simp] theorem State.push_ch (s : State) (w : Word) : (s.push w).ch = s.ch := rfl
@[simp] theorem State.push_mem (s : State) (w : Word) : (s.push w).mem = s.mem := rfl
@[simp] theorem State.push_inputs (s : State) (w : Word) : (s.push w).inputs = s.inputs := rfl
@[simp] theorem State.push_cycles (s : State) (w : Word) : (s.push w).cycles = s.cycles := rfl

/-! ### pop -/

@[simp] theorem State.pop_v (s : State) : (s.pop).v = s.v := rfl
@[simp] theorem State.pop_i (s : State) : (s.pop).i = s.i := rfl
@[simp] theorem State.pop_pc (s : State) : (s.pop).pc = s.pc := rfl
@[simp] theorem State.pop_sp (s : State) : (s.pop).sp = s.sp - 1 := rfl
@[simp] theorem State.pop_stack (s : State) : (s.pop).stack = s.stack := rfl
@[simp] theorem State.pop_dt (s : State) : (s.pop).dt = s.dt := rfl
@[simp] theorem State.pop_st (s : State) : (s.pop).st = s.st := rfl
@[simp] theorem State.pop_key (s : State) : (s.pop).key = s.key := rfl
@[simp] theorem State.pop_fb (s : State) : (s.pop).fb = s.fb := rfl
@[simp] theorem State.pop_ch (s : State) : (s.pop).ch = s.ch := rfl
@[simp] theorem State.pop_mem (s : State) : (s.pop).mem = s.mem := rfl
@[simp] theorem State.pop_inputs (s : State) : (s.pop).inputs = s.inputs := rfl
@[simp] theorem State.pop_cycles (s : State) : (s.pop).cycles = s.cycles := rfl

/-! ### show -/

@[simp] theorem State.show_v (s : State) (f : Framebuffer) : (s.show f).v = s.v := rfl
@[simp] theorem State.show_i (s : State) (f : Framebuffer) : (s.show f).i = s.i := rfl
@[simp] theorem State.show_pc (s : State) (f : Framebuffer) : (s.show f).pc = s.pc := rfl
@[simp] theorem State.show_sp (s : State) (f : Framebuffer) : (s.show f).sp = s.sp := rfl
@[simp] theorem State.show_stack (s : State) (f : Framebuffer) : (s.show f).stack = s.stack := rfl
@[simp] theorem State.show_dt (s : State) (f : Framebuffer) : (s.show f).dt = s.dt := rfl
@[simp] theorem State.show_st (s : State) (f : Framebuffer) : (s.show f).st = s.st := rfl
@[simp] theorem State.show_key (s : State) (f : Framebuffer) : (s.show f).key = s.key := rfl
@[simp] theorem State.show_fb (s : State) (f : Framebuffer) : (s.show f).fb = f := rfl
@[simp] theorem State.show_ch (s : State) (f : Framebuffer) : (s.show f).ch = true := rfl
@[simp] theorem State.show_mem (s : State) (f : Framebuffer) : (s.show f).mem = s.mem := rfl
@[simp] theorem State.show_inputs (s : State) (f : Framebuffer) : (s.show f).inputs = s.inputs := rfl
@[simp] theorem State.show_cycles (s : State) (f : Framebuffer) : (s.show f).cycles = s.cycles := rfl

/-! ### setKey -/

@[simp] theorem State.setKey_v (s : State) (k : Fin 16) (b : Bool) : (s.setKey k b).v = s.v := rfl
@[simp] theorem State.setKey_i (s : State) (k : Fin 16) (b : Bool) : (s.setKey k b).i = s.i := rfl
@[simp] theorem State.setKey_pc (s : State) (k : Fin 16) (b : Bool) : (s.setKey k b).pc = s.pc := rfl
@[simp] theorem State.setKey_sp (s : State) (k : Fin 16) (b : Bool) : (s.setKey k b).sp = s.sp := rfl
@[simp] theorem State.setKey_stack (s : State) (k : Fin 16) (b : Bool) : (s.setKey k b).stack = s.stack := rfl
@[simp] theorem State.setKey_dt (s : State) (k : Fin 16) (b : Bool) : (s.setKey k b).dt = s.dt := rfl
@[simp] theorem State.setKey_st (s : State) (k : Fin 16) (b : Bool) : (s.setKey k b).st = s.st := rfl
@[simp] theorem State.setKey_key (s : State) (k : Fin 16) (b : Bool) : (s.setKey k b).key = s.key.set k b := rfl
@[simp] theorem State.setKey_fb (s : State) (k : Fin 16) (b : Bool) : (s.setKey k b).fb = s.fb := rfl
@[simp] theorem State.setKey_ch (s : State) (k : Fin 16) (b : Bool) : (s.setKey k b).ch = s.ch := rfl
@[simp] theorem State.setKey_mem (s : State) (k : Fin 16) (b : Bool) : (s.setKey k b).mem = s.mem := rfl
@[simp] theorem State.setKey_inputs (s : State) (k : Fin 16) (b : Bool) : (s.setKey k b).inputs = s.inputs := rfl
@[simp] theorem State.setKey_cycles (s : State) (k : Fin 16) (b : Bool) : (s.setKey k b).cycles = s.cycles := rfl

/-! ### clearKeys -/

@[simp] theorem State.clearKeys_v (s : State) : (s.clearKeys).v = s.v := rfl
@[simp] theorem State.clearKeys_i (s : State) : (s.clearKeys).i = s.i := rfl
@[simp] theorem State.clearKeys_pc (s : State) : (s.clearKeys).pc = s.pc := rfl
@[simp] theorem State.clearKeys_sp (s : State) : (s.clearKeys).sp = s.sp := rfl
@[simp] theorem State.clearKeys_stack (s : State) : (s.clearKeys).stack = s.stack := rfl
@[simp] theorem State.clearKeys_dt (s : State) : (s.clearKeys).dt = s.dt := rfl
@[simp] theorem State.clearKeys_st (s : State) : (s.clearKeys).st = s.st := rfl
@[simp] theorem State.clearKeys_key (s : State) : (s.clearKeys).key = Vector.replicate 16 false := rfl
@[simp] theorem State.clearKeys_fb (s : State) : (s.clearKeys).fb = s.fb := rfl
@[simp] theorem State.clearKeys_ch (s : State) : (s.clearKeys).ch = s.ch := rfl
@[simp] theorem State.clearKeys_mem (s : State) : (s.clearKeys).mem = s.mem := rfl
@[simp] theorem State.clearKeys_inputs (s : State) : (s.clearKeys).inputs = s.inputs := rfl
@[simp] theorem State.clearKeys_cycles (s : State) : (s.clearKeys).cycles = s.cycles := rfl

/-! ### setDt -/

@[simp] theorem State.setDt_v (s : State) (b : Byte) : (s.setDt b).v = s.v := rfl
@[simp] theorem State.setDt_i (s : State) (b : Byte) : (s.setDt b).i = s.i := rfl
@[simp] theorem State.setDt_pc (s : State) (b : Byte) : (s.setDt b).pc = s.pc := rfl
@[simp] theorem State.setDt_sp (s : State) (b : Byte) : (s.setDt b).sp = s.sp := rfl
@[simp] theorem State.setDt_stack (s : State) (b : Byte) : (s.setDt b).stack = s.stack := rfl
@[simp] theorem State.setDt_dt (s : State) (b : Byte) : (s.setDt b).dt = b := rfl
@[simp] theorem State.setDt_st (s : State) (b : Byte) : (s.setDt b).st = s.st := rfl
@[simp] theorem State.setDt_key (s : State) (b : Byte) : (s.setDt b).key = s.key := rfl
@[simp] theorem State.setDt_fb (s : State) (b : Byte) : (s.setDt b).fb = s.fb := rfl
@[simp] theorem State.setDt_ch (s : State) (b : Byte) : (s.setDt b).ch = s.ch := rfl
@[simp] theorem State.setDt_mem (s : State) (b : Byte) : (s.setDt b).mem = s.mem := rfl
@[simp] theorem State.setDt_inputs (s : State) (b : Byte) : (s.setDt b).inputs = s.inputs := rfl
@[simp] theorem State.setDt_cycles (s : State) (b : Byte) : (s.setDt b).cycles = s.cycles := rfl

/-! ### setSt -/

@[simp] theorem State.setSt_v (s : State) (b : Byte) : (s.setSt b).v = s.v := rfl
@[simp] theorem State.setSt_i (s : State) (b : Byte) : (s.setSt b).i = s.i := rfl
@[simp] theorem State.setSt_pc (s : State) (b : Byte) : (s.setSt b).pc = s.pc := rfl
@[simp] theorem State.setSt_sp (s : State) (b : Byte) : (s.setSt b).sp = s.sp := rfl
@[simp] theorem State.setSt_stack (s : State) (b : Byte) : (s.setSt b).stack = s.stack := rfl
@[simp] theorem State.setSt_dt (s : State) (b : Byte) : (s.setSt b).dt = s.dt := rfl
@[simp] theorem State.setSt_st (s : State) (b : Byte) : (s.setSt b).st = b := rfl
@[simp] theorem State.setSt_key (s : State) (b : Byte) : (s.setSt b).key = s.key := rfl
@[simp] theorem State.setSt_fb (s : State) (b : Byte) : (s.setSt b).fb = s.fb := rfl
@[simp] theorem State.setSt_ch (s : State) (b : Byte) : (s.setSt b).ch = s.ch := rfl
@[simp] theorem State.setSt_mem (s : State) (b : Byte) : (s.setSt b).mem = s.mem := rfl
@[simp] theorem State.setSt_inputs (s : State) (b : Byte) : (s.setSt b).inputs = s.inputs := rfl
@[simp] theorem State.setSt_cycles (s : State) (b : Byte) : (s.setSt b).cycles = s.cycles := rfl

/-! ### timerStep -/

@[simp] theorem State.timerStep_v (s : State) : (s.timerStep).v = s.v := rfl
@[simp] theorem State.timerStep_i (s : State) : (s.timerStep).i = s.i := rfl
@[simp] theorem State.timerStep_pc (s : State) : (s.timerStep).pc = s.pc := rfl
@[simp] theorem State.timerStep_sp (s : State) : (s.timerStep).sp = s.sp := rfl
@[simp] theorem State.timerStep_stack (s : State) : (s.timerStep).stack = s.stack := rfl
@[simp] theorem State.timerStep_dt (s : State) : (s.timerStep).dt = countDown s.dt := rfl
@[simp] theorem State.timerStep_st (s : State) : (s.timerStep).st = countDown s.st := rfl
@[simp] theorem State.timerStep_key (s : State) : (s.timerStep).key = s.key := rfl
@[simp] theorem State.timerStep_fb (s : State) : (s.timerStep).fb = s.fb := rfl
@[simp] theorem State.timerStep_ch (s : State) : (s.timerStep).ch = s.ch := rfl
@[simp] theorem State.timerStep_mem (s : State) : (s.timerStep).mem = s.mem := rfl
@[simp] theorem State.timerStep_inputs (s : State) : (s.timerStep).inputs = s.inputs := rfl
@[simp] theorem State.timerStep_cycles (s : State) : (s.timerStep).cycles = s.cycles := rfl

/-! ### useInputs -/

@[simp] theorem State.useInputs_v (s : State) : (s.useInputs).v = s.v := rfl
@[simp] theorem State.useInputs_i (s : State) : (s.useInputs).i = s.i := rfl
@[simp] theorem State.useInputs_pc (s : State) : (s.useInputs).pc = s.pc := rfl
@[simp] theorem State.useInputs_sp (s : State) : (s.useInputs).sp = s.sp := rfl
@[simp] theorem State.useInputs_stack (s : State) : (s.useInputs).stack = s.stack := rfl
@[simp] theorem State.useInputs_dt (s : State) : (s.useInputs).dt = s.dt := rfl
@[simp] theorem State.useInputs_st (s : State) : (s.useInputs).st = s.st := rfl
@[simp] theorem State.useInputs_key (s : State) : (s.useInputs).key = s.key := rfl
@[simp] theorem State.useInputs_fb (s : State) : (s.useInputs).fb = s.fb := rfl
@[simp] theorem State.useInputs_ch (s : State) : (s.useInputs).ch = s.ch := rfl
@[simp] theorem State.useInputs_mem (s : State) : (s.useInputs).mem = s.mem := rfl
@[simp] theorem State.useInputs_inputs (s : State) : (s.useInputs).inputs = s.inputs.tail := rfl
@[simp] theorem State.useInputs_cycles (s : State) : (s.useInputs).cycles = s.cycles + 1 := rfl

/-! ### clearChanged -/

@[simp] theorem State.clearChanged_v (s : State) : (s.clearChanged).v = s.v := rfl
@[simp] theorem State.clearChanged_i (s : State) : (s.clearChanged).i = s.i := rfl
@[simp] theorem State.clearChanged_pc (s : State) : (s.clearChanged).pc = s.pc := rfl
@[simp] theorem State.clearChanged_sp (s : State) : (s.clearChanged).sp = s.sp := rfl
@[simp] theorem State.clearChanged_stack (s : State) : (s.clearChanged).stack = s.stack := rfl
@[simp] theorem State.clearChanged_dt (s : State) : (s.clearChanged).dt = s.dt := rfl
@[simp] theorem State.clearChanged_st (s : State) : (s.clearChanged).st = s.st := rfl
@[simp] theorem State.clearChanged_key (s : State) : (s.clearChanged).key = s.key := rfl
@[simp] theorem State.clearChanged_fb (s : State) : (s.clearChanged).fb = s.fb := rfl
@[simp] theorem State.clearChanged_ch (s : State) : (s.clearChanged).ch = false := rfl
@[simp] theorem State.clearChanged_mem (s : State) : (s.clearChanged).mem = s.mem := rfl
@[simp] theorem State.clearChanged_inputs (s : State) : (s.clearChanged).inputs = s.inputs := rfl
@[simp] theorem State.clearChanged_cycles (s : State) : (s.clearChanged).cycles = s.cycles := rfl

/-! ### givenInputs -/

@[simp] theorem State.givenInputs_v (s : State) (t : Bool) (b : Byte) : (s.givenInputs t b).v = s.v := rfl
@[simp] theorem State.givenInputs_i (s : State) (t : Bool) (b : Byte) : (s.givenInputs t b).i = s.i := rfl
@[simp] theorem State.givenInputs_pc (s : State) (t : Bool) (b : Byte) : (s.givenInputs t b).pc = s.pc := rfl
@[simp] theorem State.givenInputs_sp (s : State) (t : Bool) (b : Byte) : (s.givenInputs t b).sp = s.sp := rfl
@[simp] theorem State.givenInputs_stack (s : State) (t : Bool) (b : Byte) : (s.givenInputs t b).stack = s.stack := rfl
@[simp] theorem State.givenInputs_dt (s : State) (t : Bool) (b : Byte) : (s.givenInputs t b).dt = s.dt := rfl
@[simp] theorem State.givenInputs_st (s : State) (t : Bool) (b : Byte) : (s.givenInputs t b).st = s.st := rfl
@[simp] theorem State.givenInputs_key (s : State) (t : Bool) (b : Byte) : (s.givenInputs t b).key = s.key := rfl
@[simp] theorem State.givenInputs_fb (s : State) (t : Bool) (b : Byte) : (s.givenInputs t b).fb = s.fb := rfl
@[simp] theorem State.givenInputs_ch (s : State) (t : Bool) (b : Byte) : (s.givenInputs t b).ch = s.ch := rfl
@[simp] theorem State.givenInputs_mem (s : State) (t : Bool) (b : Byte) : (s.givenInputs t b).mem = s.mem := rfl
@[simp] theorem State.givenInputs_inputs (s : State) (t : Bool) (b : Byte) : (s.givenInputs t b).inputs = { tick := t, rnd := b } :: s.inputs := rfl
@[simp] theorem State.givenInputs_cycles (s : State) (t : Bool) (b : Byte) : (s.givenInputs t b).cycles = s.cycles := rfl

/-! ### What is read after an update that does not write it -/

@[simp] theorem State.readByte_setReg (s : State) (r : Reg) (b : Byte) (q : Nat) : (s.setReg r b).readByte q = s.readByte q := rfl
@[simp] theorem State.slot_setReg (s : State) (r : Reg) (b : Byte) (q : Fin 16) : (s.setReg r b).slot q = s.slot q := rfl
@[simp] theorem State.keyDown_setReg (s : State) (r : Reg) (b : Byte) (q : Fin 16) : (s.setReg r b).keyDown q = s.keyDown q := rfl
@[simp] theorem State.pixel_setReg (s : State) (r : Reg) (b : Byte) (q : Fin 64) (q' : Fin 32) : (s.setReg r b).pixel q q' = s.pixel q q' := rfl
@[simp] theorem State.readByte_setRegs (s : State) (w : Vector Byte 16) (q : Nat) : (s.setRegs w).readByte q = s.readByte q := rfl
@[simp] theorem State.slot_setRegs (s : State) (w : Vector Byte 16) (q : Fin 16) : (s.setRegs w).slot q = s.slot q := rfl
@[simp] theorem State.keyDown_setRegs (s : State) (w : Vector Byte 16) (q : Fin 16) : (s.setRegs w).keyDown q = s.keyDown q := rfl
@[simp] theorem State.pixel_setRegs (s : State) (w : Vector Byte 16) (q : Fin 64) (q' : Fin 32) : (s.setRegs w).pixel q q' = s.pixel q q' := rfl
@[simp] theorem State.reg_setI (s : State) (w : Word) (q : Reg) : (s.setI w).reg q = s.reg q := rfl
@[simp] theorem State.readByte_setI (s : State) (w : Word) (q : Nat) : (s.setI w).readByte q = s.readByte q := rfl
@[simp] theorem State.slot_setI (s : State) (w : Word) (q : Fin 16) : (s.setI w).slot q = s.slot q := rfl
@[simp] theorem State.keyDown_setI (s : State) (w : Word) (q : Fin 16) : (s.setI w).keyDown q = s.keyDown q := rfl
@[simp] theorem State.pixel_setI (s : State) (w : Word) (q : Fin 64) (q' : Fin 32) : (s.setI w).pixel q q' = s.pixel q q' := rfl
@[simp] theorem State.reg_setPc (s : State) (w : Word) (q : Reg) : (s.setPc w).reg q = s.reg q := rfl
@[simp] theorem State.readByte_setPc (s : State) (w : Word) (q : Nat) : (s.setPc w).readByte q = s.readByte q := rfl
@[simp] theorem State.slot_setPc (s : State) (w : Word) (q : Fin 16) : (s.setPc w).slot q = s.slot q := rfl
@[simp] theorem State.keyDown_setPc (s : State) (w : Word) (q : Fin 16) : (s.setPc w).keyDown q = s.keyDown q := rfl
@[simp] theorem State.pixel_setPc (s : State) (w : Word) (q : Fin 64) (q' : Fin 32) : (s.setPc w).pixel q q' = s.pixel q q' := rfl
@[simp] theorem State.reg_advance (s : State) (q : Reg) : (s.advance).reg q = s.reg q := rfl
@[simp] theorem State.readByte_advance (s : State) (q : Nat) : (s.advance).readByte q = s.readByte q := rfl
@[simp] theorem State.slot_advance (s : State) (q : Fin 16) : (s.advance).slot q = s.slot q := rfl
@[simp] theorem State.keyDown_advance (s : State) (q : Fin 16) : (s.advance).keyDown q = s.keyDown q := rfl
@[simp] theorem State.pixel_advance (s : State) (q : Fin 64) (q' : Fin 32) : (s.advance).pixel q q' = s.pixel q q' := rfl
@[simp] theorem State.reg_skipIf (s : State) (c : Bool) (q : Reg) : (s.skipIf c).reg q = s.reg q := rfl
@[simp] theorem State.readByte_skipIf (s : State) (c : Bool) (q : Nat) : (s.skipIf c).readByte q = s.readByte q := rfl
@[simp] theorem State.slot_skipIf (s : State) (c : Bool) (q : Fin 16) : (s.skipIf c).slot q = s.slot q := rfl
@[simp] theorem State.keyDown_skipIf (s : State) (c : Bool) (q : Fin 16) : (s.skipIf c).keyDown q = s.keyDown q := rfl
@[simp] theorem State.pixel_skipIf (s : State) (c : Bool) (q : Fin 64) (q' : Fin 32) : (s.skipIf c).pixel q q' = s.pixel q q' := rfl
@[simp] theorem State.reg_setMem (s : State) (m : Memory) (q : Reg) : (s.setMem m).reg q = s.reg q := rfl
@[simp] theorem State.slot_setMem (s : State) (m : Memory) (q : Fin 16) : (s.setMem m).slot q = s.slot q := rfl
@[simp] theorem State.keyDown_setMem (s : State) (m : Memory) (q : Fin 16) : (s.setMem m).keyDown q = s.keyDown q := rfl
@[simp] theorem State.pixel_setMem (s : State) (m : Memory) (q : Fin 64) (q' : Fin 32) : (s.setMem m).pixel q q' = s.pixel q q' := rfl
@[simp] theorem State.reg_storeBytes (s : State) (a : Nat) (bs : List Byte) (q : Reg) : (s.storeBytes a bs).reg q = s.reg q := rfl
@[simp] theorem State.slot_storeBytes (s : State) (a : Nat) (bs : List Byte) (q : Fin 16) : (s.storeBytes a bs).slot q = s.slot q := rfl
@[simp] theorem State.keyDown_storeBytes (s : State) (a : Nat) (bs : List Byte) (q : Fin 16) : (s.storeBytes a bs).keyDown q = s.keyDown q := rfl
@[simp] theorem State.pixel_storeBytes (s : State) (a : Nat) (bs : List Byte) (q : Fin 64) (q' : Fin 32) : (s.storeBytes a bs).pixel q q' = s.pixel q q' := rfl
@[simp] theorem State.reg_push (s : State) (w : Word) (q : Reg) : (s.push w).reg q = s.reg q := rfl
@[simp] theorem State.readByte_push (s : State) (w : Word) (q : Nat) : (s.push w).readByte q = s.readByte q := rfl
@[simp] theorem State.keyDown_push (s : State) (w : Word) (q : Fin 16) : (s.push w).keyDown q = s.keyDown q := rfl
@[simp] theorem State.pixel_push (s : State) (w : Word) (q : Fin 64) (q' : Fin 32) : (s.push w).pixel q q' = s.pixel q q' := rfl
@[simp] theorem State.reg_pop (s : State) (q : Reg) : (s.pop).reg q = s.reg q := rfl
@[simp] theorem State.readByte_pop (s : State) (q : Nat) : (s.pop).readByte q = s.readByte q := rfl
@[simp] theorem State.slot_pop (s : State) (q : Fin 16) : (s.pop).slot q = s.slot q := rfl
@[simp] theorem State.keyDown_pop (s : State) (q : Fin 16) : (s.pop).keyDown q = s.keyDown q := rfl
@[simp] theorem State.pixel_pop (s : State) (q : Fin 64) (q' : Fin 32) : (s.pop).pixel q q' = s.pixel q q' := rfl
@[simp] theorem State.reg_show (s : State) (f : Framebuffer) (q : Reg) : (s.show f).reg q = s.reg q := rfl
@[simp] theorem State.readByte_show (s : State) (f : Framebuffer) (q : Nat) : (s.show f).readByte q = s.readByte q := rfl
@[simp] theorem State.slot_show (s : State) (f : Framebuffer) (q : Fin 16) : (s.show f).slot q = s.slot q := rfl
@[simp] theorem State.keyDown_show (s : State) (f : Framebuffer) (q : Fin 16) : (s.show f).keyDown q = s.keyDown q := rfl
@[simp] theorem State.reg_setKey (s : State) (k : Fin 16) (b : Bool) (q : Reg) : (s.setKey k b).reg q = s.reg q := rfl
@[simp] theorem State.readByte_setKey (s : State) (k : Fin 16) (b : Bool) (q : Nat) : (s.setKey k b).readByte q = s.readByte q := rfl
@[simp] theorem State.slot_setKey (s : State) (k : Fin 16) (b : Bool) (q : Fin 16) : (s.setKey k b).slot q = s.slot q := rfl
@[simp] theorem State.pixel_setKey (s : State) (k : Fin 16) (b : Bool) (q : Fin 64) (q' : Fin 32) : (s.setKey k b).pixel q q' = s.pixel q q' := rfl
@[simp] theorem State.reg_clearKeys (s : State) (q : Reg) : (s.clearKeys).reg q = s.reg q := rfl
@[simp] theorem State.readByte_clearKeys (s : State) (q : Nat) : (s.clearKeys).readByte q = s.readByte q := rfl
@[simp] theorem State.slot_clearKeys (s : State) (q : Fin 16) : (s.clearKeys).slot q = s.slot q := rfl
@[simp] theorem State.pixel_clearKeys (s : State) (q : Fin 64) (q' : Fin 32) : (s.clearKeys).pixel q q' = s.pixel q q' := rfl
@[simp] theorem State.reg_setDt (s : State) (b : Byte) (q : Reg) : (s.setDt b).reg q = s.reg q := rfl
@[simp] theorem State.readByte_setDt (s : State) (b : Byte) (q : Nat) : (s.setDt b).readByte q = s.readByte q := rfl
@[simp] theorem State.slot_setDt (s : State) (b : Byte) (q : Fin 16) : (s.setDt b).slot q = s.slot q := rfl
@[simp] theorem State.keyDown_setDt (s : State) (b : Byte) (q : Fin 16) : (s.setDt b).keyDown q = s.keyDown q := rfl
@[simp] theorem State.pixel_setDt (s : State) (b : Byte) (q : Fin 64) (q' : Fin 32) : (s.setDt b).pixel q q' = s.pixel q q' := rfl
@[simp] theorem State.reg_setSt (s : State) (b : Byte) (q : Reg) : (s.setSt b).reg q = s.reg q := rfl
@[simp] theorem State.readByte_setSt (s : State) (b : Byte) (q : Nat) : (s.setSt b).readByte q = s.readByte q := rfl
@[simp] theorem State.slot_setSt (s : State) (b : Byte) (q : Fin 16) : (s.setSt b).slot q = s.slot q := rfl
@[simp] theorem State.keyDown_setSt (s : State) (b : Byte) (q : Fin 16) : (s.setSt b).keyDown q = s.keyDown q := rfl
@[simp] theorem State.pixel_setSt (s : State) (b : Byte) (q : Fin 64) (q' : Fin 32) : (s.setSt b).pixel q q' = s.pixel q q' := rfl
@[simp] theorem State.reg_timerStep (s : State) (q : Reg) : (s.timerStep).reg q = s.reg q := rfl
@[simp] theorem State.readByte_timerStep (s : State) (q : Nat) : (s.timerStep).readByte q = s.readByte q := rfl
@[simp] theorem State.slot_timerStep (s : State) (q : Fin 16) : (s.timerStep).slot q = s.slot q := rfl
@[simp] theorem State.keyDown_timerStep (s : State) (q : Fin 16) : (s.timerStep).keyDown q = s.keyDown q := rfl
@[simp] theorem State.pixel_timerStep (s : State) (q : Fin 64) (q' : Fin 32) : (s.timerStep).pixel q q' = s.pixel q q' := rfl
@[simp] theorem State.reg_useInputs (s : State) (q : Reg) : (s.useInputs).reg q = s.reg q := rfl
@[simp] theorem State.readByte_useInputs (s : State) (q : Nat) : (s.useInputs).readByte q = s.readByte q := rfl
@[simp] theorem State.slot_useInputs (s : State) (q : Fin 16) : (s.useInputs).slot q = s.slot q := rfl
@[simp] theorem State.keyDown_useInputs (s : State) (q : Fin 16) : (s.useInputs).keyDown q = s.keyDown q := rfl
@[simp] theorem State.pixel_useInputs (s : State) (q : Fin 64) (q' : Fin 32) : (s.useInputs).pixel q q' = s.pixel q q' := rfl
@[simp] theorem State.reg_clearChanged (s : State) (q : Reg) : (s.clearChanged).reg q = s.reg q := rfl
@[simp] theorem State.readByte_clearChanged (s : State) (q : Nat) : (s.clearChanged).readByte q = s.readByte q := rfl
@[simp] theorem State.slot_clearChanged (s : State) (q : Fin 16) : (s.clearChanged).slot q = s.slot q := rfl
@[simp] theorem State.keyDown_clearChanged (s : State) (q : Fin 16) : (s.clearChanged).keyDown q = s.keyDown q := rfl
@[simp] theorem State.pixel_clearChanged (s : State) (q : Fin 64) (q' : Fin 32) : (s.clearChanged).pixel q q' = s.pixel q q' := rfl
@[simp] theorem State.reg_givenInputs (s : State) (t : Bool) (b : Byte) (q : Reg) : (s.givenInputs t b).reg q = s.reg q := rfl
@[simp] theorem State.readByte_givenInputs (s : State) (t : Bool) (b : Byte) (q : Nat) : (s.givenInputs t b).readByte q = s.readByte q := rfl
@[simp] theorem State.slot_givenInputs (s : State) (t : Bool) (b : Byte) (q : Fin 16) : (s.givenInputs t b).slot q = s.slot q := rfl
@[simp] theorem State.keyDown_givenInputs (s : State) (t : Bool) (b : Byte) (q : Fin 16) : (s.givenInputs t b).keyDown q = s.keyDown q := rfl
@[simp] theorem State.pixel_givenInputs (s : State) (t : Bool) (b : Byte) (q : Fin 64) (q' : Fin 32) : (s.givenInputs t b).pixel q q' = s.pixel q q' := rfl

/-! ### What is read after an update that writes it whole -/

@[simp] theorem State.pixel_show_new (s : State) (f : Framebuffer) (x : Fin 64) (y : Fin 32) :
    (s.show f).pixel x y = f.pixel x y := rfl

@[simp] theorem State.readByte_setMem_new (s : State) (m : Memory) (a : Nat) : (s.setMem m).readByte a = m.read a := rfl

end Sys2Proof.Machine
end

