-- ==== Sys2Proof/Laws/Ops.lean ====
section
/-! SUPPORT. One lemma per shared operation saying what it can do: registers, flags, checks, keys, timers, fetch, the end of
a cycle. -/

namespace Sys2Proof.Machine

/-! ### Checks and outcomes -/

/-- An instruction with a check answers a next state exactly when the check passes and the rest does. -/
theorem checked_eq_next {c : Option Fault} {o : Host.Outcome State Fault Refusal} {t : State} :
    checked c o = .next t ↔ c = none ∧ o = .next t := by
  cases c <;> simp [checked, raise]

/-- An instruction with a check faults when the check raises, or when the rest faults. -/
theorem checked_eq_fault {c : Option Fault} {o : Host.Outcome State Fault Refusal} {f : Fault} :
    checked c o = .fault f ↔ c = some f ∨ (c = none ∧ o = .fault f) := by
  cases c <;> simp [checked, raise]

/-- A check never refuses. -/
theorem checked_eq_refused {c : Option Fault} {o : Host.Outcome State Fault Refusal} {r : Refusal} :
    checked c o = .refused r ↔ c = none ∧ o = .refused r := by
  cases c <;> simp [checked, raise]

/-! ### Registers -/

/-- A register read after a register write. -/
theorem State.reg_setReg (s : State) (r r' : Reg) (b : Byte) :
    (s.setReg r b).reg r' = if r = r' then b else s.reg r' := by
  simp only [State.reg, State.setReg, Fin.getElem_fin, Vector.getElem_set, Fin.ext_iff]

/-- The registers are the field `v`, and nothing else. -/
theorem State.reg_congr {s t : State} (h : t.v = s.v) (r : Reg) : t.reg r = s.reg r := by
  simp only [State.reg, h]

/-- Every byte of a memory is the field `mem`'s, and nothing else. -/
theorem State.readByte_congr {s t : State} (h : t.mem = s.mem) (a : Nat) : t.readByte a = s.readByte a := by
  simp only [State.readByte, h]

/-- The registers after a flag-writing ALU instruction: VF is the flag, also where it is the destination (R82). -/
theorem State.reg_writeFlagged (s : State) (x : Reg) (b : Byte) (f : Bool) (r : Reg) :
    (s.writeFlagged x b f).reg r = if VF = r then flagByte f else if x = r then b else s.reg r := by
  have h : (s.writeFlagged x b f).reg r = ((s.setReg x b).setReg VF (flagByte f)).reg r :=
    State.reg_congr rfl r
  rw [h, State.reg_setReg, State.reg_setReg]

/-- The registers after a Block load: V0 to Vx from memory, the others kept (R101). -/
theorem State.reg_loadedRegs (s : State) (x r : Reg) :
    (s.setRegs (s.loadedRegs x)).reg r = if r ≤ x then s.readByte (s.i.toNat + r.val) else s.reg r := by
  simp [State.reg, State.loadedRegs]

/-- Block store moves `x + 1` bytes (R100). -/
@[simp] theorem State.length_blockBytes (s : State) (x : Reg) : (s.blockBytes x).length = x.val + 1 := by
  have := x.isLt
  simp only [State.blockBytes, blockRegs, List.length_map, List.length_take, List.length_finRange]
  omega

/-- Byte `k` of a Block store is register `k` (R100). -/
theorem State.getD_blockBytes (s : State) (x r : Reg) (h : r ≤ x) :
    (s.blockBytes x).getD r.val 0 = s.reg r := by
  have hr : r.val < (s.blockBytes x).length := by
    rw [State.length_blockBytes]; exact Nat.lt_succ_of_le h
  rw [List.getD_eq_getElem _ _ hr]
  simp [State.blockBytes, blockRegs]

/-! ### Memory through the state -/

/-- A byte read after a block of stores. -/
theorem State.readByte_storeBytes (s : State) (a : Nat) (bs : List Byte) (a' : Nat) :
    (s.storeBytes a bs).readByte a' =
      if a ≤ a' ∧ a' < a + bs.length then bs.getD (a' - a) 0 else s.readByte a' :=
  Memory.read_writeBytes bs s.mem a a'

/-! ### Keys -/

/-- A key flag read after one is written. -/
theorem State.keyDown_setKey (s : State) (k k' : Fin 16) (b : Bool) :
    (s.setKey k b).keyDown k' = if k = k' then b else s.keyDown k' := by
  simp only [State.keyDown, State.setKey, Fin.getElem_fin, Vector.getElem_set, Fin.ext_iff]

/-- After clearing, no key flag is set. -/
@[simp] theorem State.keyDown_clearKeys (s : State) (k : Fin 16) : s.clearKeys.keyDown k = false := by
  simp [State.keyDown]

/-- The key flags are the field `key`, and nothing else. -/
theorem State.keyDown_congr {s t : State} (h : t.key = s.key) (k : Fin 16) : t.keyDown k = s.keyDown k := by
  simp only [State.keyDown, h]

/-- No least key exactly when no flag is set (R111). -/
theorem State.lowestKey_eq_none {s : State} : s.lowestKey = none ↔ ∀ k, s.keyDown k = false := by
  simp [State.lowestKey]

/-- The least key: its flag is set and no lower one is (R111). -/
theorem State.lowestKey_eq_some {s : State} {k : Fin 16} (h : s.lowestKey = some k) :
    s.keyDown k = true ∧ ∀ j, j < k → s.keyDown j = false := by
  unfold State.lowestKey at h
  obtain ⟨h1, n, hn, h2, h3⟩ := List.find?_eq_some_iff_getElem.1 h
  refine ⟨h1, fun j hj => ?_⟩
  simp only [List.getElem_finRange] at h2 h3
  have hk : k.val = n := by rw [← h2]; rfl
  have := h3 j.val (by rw [← hk]; exact hj)
  simpa using this

/-- What the key check passes (R108). -/
theorem keyCheck_eq_none {b : Byte} : keyCheck b = none ↔ b.toNat ≤ 15 := by
  unfold keyCheck; split <;> simp <;> omega

/-- What the font check passes (R98). -/
theorem fontCheck_eq_none {b : Byte} : fontCheck b = none ↔ b.toNat ≤ 15 := by
  unfold fontCheck; split <;> simp <;> omega

/-! ### Stack -/

/-- A slot read after a push. -/
theorem State.slot_push (s : State) (w : Word) (k : Fin 16) :
    (s.push w).slot k = if s.sp = k then w else s.slot k := by
  simp only [State.slot, State.push_stack, Fin.getElem_fin, Vector.getElem_set, Fin.ext_iff]

/-- What the Call's check passes (R72). -/
theorem State.overflowCheck_eq_none {s : State} : s.overflowCheck = none ↔ s.sp ≠ 15 := by
  unfold State.overflowCheck; split <;> simp_all

/-- What the Return's check passes (R70). -/
theorem State.underflowCheck_eq_none {s : State} : s.underflowCheck = none ↔ s.sp ≠ 0 := by
  unfold State.underflowCheck; split <;> simp_all

/-! ### Timers, inputs, the cycle -/

/-- The timer's step, as a number (R126). -/
theorem countDown_toNat (t : Byte) : (countDown t).toNat = t.toNat - 1 := by
  unfold countDown
  split
  · next h => simp [h]
  · next h =>
    have : t.toNat ≠ 0 := fun e => h (BitVec.eq_of_toNat_eq (by simpa using e))
    bv_omega

/-- The fetch check, as a bound on PC (R36). -/
theorem State.fetchCheck_eq_none {s : State} : s.fetchCheck = none ↔ s.pc.toNat ≤ 4094 := by
  unfold State.fetchCheck; split <;> simp <;> omega

/-- A cycle that ends well ran the decoded instruction and closed the cycle (R24). -/
theorem step_eq_next {s t : State} (h : step s = .next t) :
    s.fetchCheck = none ∧ ∃ i u, decodeWord s.fetchWord = .ok i ∧ exec i s = .next u ∧ t = u.closeCycle := by
  unfold step at h
  cases hf : s.fetchCheck with
  | some f => simp [hf, raise] at h
  | none =>
    cases hd : decodeWord s.fetchWord with
    | error e => simp [hf, hd, raise] at h
    | ok i =>
      simp only [hf, hd] at h
      cases hx : exec i s with
      | next u =>
        rw [hx] at h
        exact ⟨rfl, i, u, rfl, hx, by injection h with h; exact h.symm⟩
      | fault f => simp [hx, endCycle] at h
      | refused r => simp [hx, endCycle] at h

/-- A closed cycle: the timers stepped where `tick` is 1, the inputs used up, everything else as it was. -/
theorem State.closeCycle_fields (s : State) :
    s.closeCycle.v = s.v ∧ s.closeCycle.i = s.i ∧ s.closeCycle.pc = s.pc ∧ s.closeCycle.sp = s.sp ∧
    s.closeCycle.stack = s.stack ∧ s.closeCycle.key = s.key ∧ s.closeCycle.fb = s.fb ∧ s.closeCycle.ch = s.ch ∧
    s.closeCycle.mem = s.mem ∧ s.closeCycle.inputs = s.inputs.tail ∧ s.closeCycle.cycles = s.cycles + 1 ∧
    s.closeCycle.dt = (if s.tickInput then countDown s.dt else s.dt) ∧
    s.closeCycle.st = (if s.tickInput then countDown s.st else s.st) := by
  unfold State.closeCycle
  cases s.tickInput <;> simp

end Sys2Proof.Machine
end

