-- ==== Sys2Proof/Laws/Screen.lean ====
section
/-! SUPPORT. The framebuffer's laws, and what the columns and rows of a draw do to a canvas (R105). -/

namespace Sys2Proof.Machine

/-- A cell read after one is written. -/
theorem Framebuffer.pixel_setPixel (f : Framebuffer) (x x' : Fin 64) (y y' : Fin 32) (b : Bool) :
    (f.setPixel x y b).pixel x' y' = if x = x' ∧ y = y' then b else f.pixel x' y' := by
  unfold Framebuffer.pixel Framebuffer.setPixel
  simp only [Fin.getElem_fin, Vector.getElem_set, Fin.ext_iff]
  by_cases hy : y.val = y'.val
  · simp only [hy, if_true, and_true, Vector.getElem_set]
  · simp [hy]

/-- The blank framebuffer has no cell set. -/
@[simp] theorem Framebuffer.pixel_blank (x : Fin 64) (y : Fin 32) : Framebuffer.blank.pixel x y = false := by
  simp [Framebuffer.pixel, Framebuffer.blank]

/-- Two framebuffers with the same cells are the same. -/
theorem Framebuffer.ext_pixel {f g : Framebuffer} (h : ∀ x y, f.pixel x y = g.pixel x y) : f = g := by
  apply Vector.ext
  intro y hy
  apply Vector.ext
  intro x hx
  exact h ⟨x, hx⟩ ⟨y, hy⟩

/-- The cells after one toggle. -/
theorem Canvas.pixel_toggle (c : Canvas) (x x' : Fin 64) (y y' : Fin 32) :
    (c.toggle x y).fb.pixel x' y' = if x = x' ∧ y = y' then !c.fb.pixel x' y' else c.fb.pixel x' y' := by
  unfold Canvas.toggle
  rw [Framebuffer.pixel_setPixel]
  split
  · next h => rw [h.1, h.2]
  · rfl

/-- The target column, as a number (R105). -/
theorem targetX_eq_iff {vx : Byte} {col : Nat} {px : Fin 64} : targetX vx col = px ↔ (vx.toNat + col) % 64 = px.val := by
  simp [targetX, Fin.ext_iff]

/-- The target row, as a number (R105). -/
theorem targetY_eq_iff {vy : Byte} {row : Nat} {py : Fin 32} : targetY vy row = py ↔ (vy.toNat + row) % 32 = py.val := by
  simp [targetY, Fin.ext_iff]

/-- The columns of one sprite row never meet: 8 is less than 64 (R105). -/
theorem targetX_inj {vx : Byte} {c c' : Nat} (h : c < 8) (h' : c' < 8) (e : targetX vx c = targetX vx c') :
    c = c' := by
  have : (vx.toNat + c) % 64 = (vx.toNat + c') % 64 := by
    simpa [targetX, Fin.ext_iff] using e
  omega

/-- The rows of one sprite never meet: 15 is less than 32 (R105). -/
theorem targetY_inj {vy : Byte} {r r' : Nat} (h : r < 32) (h' : r' < 32) (e : targetY vy r = targetY vy r') :
    r = r' := by
  have : (vy.toNat + r) % 32 = (vy.toNat + r') % 32 := by
    simpa [targetY, Fin.ext_iff] using e
  omega

/-- The first `k` columns of a row toggle the target of every set bit. -/
theorem Canvas.drawCols_touched (vx vy : Byte) (row : Nat) (b : Byte) (c : Canvas) {k col : Nat} (hk : k ≤ 8)
    (hc : col < k) (hb : b.getLsbD (7 - col) = true) :
    (drawCols vx vy row b c k).fb.pixel (targetX vx col) (targetY vy row) =
      !c.fb.pixel (targetX vx col) (targetY vy row) ∧
    (∀ k' ≤ col, (drawCols vx vy row b c k').fb.pixel (targetX vx col) (targetY vy row) =
      c.fb.pixel (targetX vx col) (targetY vy row)) := by
  have before : ∀ k' ≤ col, (drawCols vx vy row b c k').fb.pixel (targetX vx col) (targetY vy row) =
      c.fb.pixel (targetX vx col) (targetY vy row) := by
    intro k'
    induction k' with
    | zero => intro _; rfl
    | succ j ih =>
      intro hj
      have ne : ¬ (targetX vx j = targetX vx col ∧ targetY vy row = targetY vy row) := fun e => by
        have := targetX_inj (by omega) (by omega) e.1
        omega
      simp only [drawCols]
      split
      · rw [Canvas.pixel_toggle, if_neg ne, ih (by omega)]
      · exact ih (by omega)
  refine ⟨?_, before⟩
  induction k with
  | zero => omega
  | succ j ih =>
    simp only [drawCols]
    by_cases e : j = col
    · subst e
      rw [if_pos hb, Canvas.pixel_toggle, if_pos ⟨rfl, rfl⟩, before j (Nat.le_refl j)]
    · have ne : ¬ (targetX vx j = targetX vx col ∧ targetY vy row = targetY vy row) := fun h =>
        e (targetX_inj (by omega) (by omega) h.1)
      split
      · rw [Canvas.pixel_toggle, if_neg ne, ih (by omega) (by omega)]
      · exact ih (by omega) (by omega)

/-- The columns of a row leave every other cell as it was. -/
theorem Canvas.drawCols_untouched (vx vy : Byte) (row : Nat) (b : Byte) (c : Canvas) (k : Nat) (x : Fin 64) (y : Fin 32)
    (h : ∀ col < k, b.getLsbD (7 - col) = true → ¬ (targetX vx col = x ∧ targetY vy row = y)) :
    (drawCols vx vy row b c k).fb.pixel x y = c.fb.pixel x y := by
  induction k with
  | zero => rfl
  | succ j ih =>
    have ih' := ih (fun col hc => h col (by omega))
    simp only [drawCols]
    split
    · next hb => rw [Canvas.pixel_toggle, if_neg (h j (by omega) hb), ih']
    · exact ih'

/-- The columns of a row note a collision exactly where a set bit meets a set cell. -/
theorem Canvas.drawCols_hit (vx vy : Byte) (row : Nat) (b : Byte) (c : Canvas) {k : Nat} (hk : k ≤ 8) :
    (drawCols vx vy row b c k).hit = true ↔
      c.hit = true ∨ ∃ col < k, b.getLsbD (7 - col) = true ∧
        c.fb.pixel (targetX vx col) (targetY vy row) = true := by
  induction k with
  | zero => simp [drawCols]
  | succ j ih =>
    have ih' := ih (by omega)
    simp only [drawCols]
    split
    · next hb =>
      have hp := (Canvas.drawCols_touched vx vy row b c (k := j + 1) (col := j) hk (by omega) hb).2 j (Nat.le_refl j)
      have ht : ((drawCols vx vy row b c j).toggle (targetX vx j) (targetY vy row)).hit =
          ((drawCols vx vy row b c j).hit || (drawCols vx vy row b c j).fb.pixel (targetX vx j) (targetY vy row)) := rfl
      rw [ht, hp, Bool.or_eq_true, ih']
      constructor
      · rintro ((h | ⟨col, h1, h2⟩) | h)
        · exact .inl h
        · exact .inr ⟨col, by omega, h2⟩
        · exact .inr ⟨j, by omega, hb, h⟩
      · rintro (h | ⟨col, h1, h2⟩)
        · exact .inl (.inl h)
        · by_cases e : col = j
          · subst e; exact .inr h2.2
          · exact .inl (.inr ⟨col, by omega, h2⟩)
    · next hb =>
      rw [ih']
      constructor
      · rintro (h | ⟨col, h1, h2⟩)
        · exact .inl h
        · exact .inr ⟨col, by omega, h2⟩
      · rintro (h | ⟨col, h1, h2⟩)
        · exact .inl h
        · by_cases e : col = j
          · subst e; exact absurd h2.1 hb
          · exact .inr ⟨col, by omega, h2⟩

/-- The rows leave a cell that no set bit targets as it was. -/
theorem Canvas.drawRows_untouched (vx vy : Byte) (bs : List Byte) (row : Nat) (c : Canvas) (x : Fin 64) (y : Fin 32)
    (h : ∀ k < bs.length, ∀ col < 8, (bs.getD k 0).getLsbD (7 - col) = true →
      ¬ (targetX vx col = x ∧ targetY vy (row + k) = y)) :
    (drawRows vx vy row c bs).fb.pixel x y = c.fb.pixel x y := by
  induction bs generalizing row c with
  | nil => rfl
  | cons b bs ih =>
    rw [drawRows, ih]
    · exact Canvas.drawCols_untouched vx vy row b c 8 x y (fun col hc hb => h 0 (by simp) col hc hb)
    · intro k hk col hc hb
      have := h (k + 1) (by simpa using hk) col hc (by simpa using hb)
      have e : row + (k + 1) = row + 1 + k := by omega
      rwa [e] at this

/-- The rows toggle the target of every set bit. -/
theorem Canvas.drawRows_touched (vx vy : Byte) (bs : List Byte) (row : Nat) (c : Canvas) (hlen : row + bs.length ≤ 32)
    {k col : Nat} (hk : k < bs.length) (hc : col < 8) (hb : (bs.getD k 0).getLsbD (7 - col) = true) :
    (drawRows vx vy row c bs).fb.pixel (targetX vx col) (targetY vy (row + k)) =
      !c.fb.pixel (targetX vx col) (targetY vy (row + k)) := by
  induction bs generalizing row c k with
  | nil => simp at hk
  | cons b bs ih =>
    simp only [List.length_cons] at hlen hk
    cases k with
    | zero =>
      rw [drawRows, Canvas.drawRows_untouched]
      · exact (Canvas.drawCols_touched vx vy row b c (Nat.le_refl 8) hc hb).1
      · intro k' hk' col' _ _ e
        have := targetY_inj (by omega) (by omega) e.2
        omega
    | succ k =>
      have e : row + (k + 1) = row + 1 + k := by omega
      rw [drawRows, e, ih (row + 1) _ (by omega) (by omega) (by simpa using hb)]
      congr 1
      apply Canvas.drawCols_untouched
      intro col' _ _ e'
      have := targetY_inj (by omega) (by omega) e'.2
      omega

/-- The rows note a collision exactly where a set bit meets a cell that was set before the draw: no cell is met twice. -/
theorem Canvas.drawRows_hit (vx vy : Byte) (bs : List Byte) (row : Nat) (c : Canvas) (hlen : row + bs.length ≤ 32) :
    (drawRows vx vy row c bs).hit = true ↔
      c.hit = true ∨ ∃ k < bs.length, ∃ col < 8, (bs.getD k 0).getLsbD (7 - col) = true ∧
        c.fb.pixel (targetX vx col) (targetY vy (row + k)) = true := by
  induction bs generalizing row c with
  | nil => simp [drawRows]
  | cons b bs ih =>
    simp only [List.length_cons] at hlen
    rw [drawRows, ih (row + 1) _ (by omega), Canvas.drawCols_hit vx vy row b c (Nat.le_refl 8)]
    have later : ∀ k < bs.length, ∀ col : Nat,
        (drawCols vx vy row b c 8).fb.pixel (targetX vx col) (targetY vy (row + 1 + k)) =
          c.fb.pixel (targetX vx col) (targetY vy (row + (k + 1))) := by
      intro k hk col
      have e : row + (k + 1) = row + 1 + k := by omega
      rw [e]
      apply Canvas.drawCols_untouched
      intro col' _ _ e'
      have := targetY_inj (by omega) (by omega) e'.2
      omega
    constructor
    · rintro ((h | ⟨col, h1, h2, h3⟩) | ⟨k, h0, col, h1, h2, h3⟩)
      · exact .inl h
      · exact .inr ⟨0, by simp, col, h1, h2, h3⟩
      · exact .inr ⟨k + 1, by simpa using h0, col, h1, by simpa using h2, by rwa [later k h0 col] at h3⟩
    · rintro (h | ⟨k, h0, col, h1, h2, h3⟩)
      · exact .inl (.inl h)
      · cases k with
        | zero => exact .inl (.inr ⟨col, h1, h2, h3⟩)
        | succ k =>
          have h0' : k < bs.length := by simpa using h0
          exact .inr ⟨k, h0', col, h1, by simpa using h2, by rwa [later k h0' col]⟩

end Sys2Proof.Machine
end

