-- ==== Sys2Proof/Laws/Frame.lean ====
section
/-! SUPPORT. How a frame is shown: from the fields of the two states. -/

namespace Sys2Proof.Machine

/-- A frame holds when the registers outside it read the same and every field of a part outside it is the same. -/
theorem unchangedBut_of_fields {regs : List Reg} {parts : List Part} {s t : State}
    (hr : ∀ r, r ∉ regs → t.reg r = s.reg r)
    (hi : .index ∈ parts ∨ t.i = s.i) (hsp : .stackPointer ∈ parts ∨ t.sp = s.sp)
    (hst : .slots ∈ parts ∨ t.stack = s.stack) (hd : .delayTimer ∈ parts ∨ t.dt = s.dt)
    (hs : .soundTimer ∈ parts ∨ t.st = s.st) (hk : .keys ∈ parts ∨ t.key = s.key)
    (hf : .screen ∈ parts ∨ t.fb = s.fb) (hc : .changed ∈ parts ∨ t.ch = s.ch)
    (hm : .memory ∈ parts ∨ t.mem = s.mem)
    (hg : .given ∈ parts ∨ (t.inputs = s.inputs ∧ t.cycles = s.cycles)) : UnchangedBut regs parts s t := by
  refine ⟨hr, fun p hp => ?_⟩
  cases p
  case index => exact hi.resolve_left hp
  case stackPointer => exact hsp.resolve_left hp
  case slots => intro k; simp [State.slot, hst.resolve_left hp]
  case delayTimer => exact hd.resolve_left hp
  case soundTimer => exact hs.resolve_left hp
  case keys => exact fun k => State.keyDown_congr (hk.resolve_left hp) k
  case screen => intro x y; simp [State.pixel, hf.resolve_left hp]
  case changed => exact hc.resolve_left hp
  case memory => exact fun a => State.readByte_congr (hm.resolve_left hp) a
  case given => exact hg.resolve_left hp

/-- The state after an instruction with a flag: the registers but for the result and VF, PC two on, the rest as it was. -/
theorem State.unchangedBut_writeFlagged (s : State) (x : Reg) (b : Byte) (f : Bool) :
    (s.writeFlagged x b f).pc = s.pc + 2 ∧ UnchangedBut [x, VF] [] s (s.writeFlagged x b f) := by
  refine ⟨rfl, unchangedBut_of_fields ?_ (.inr rfl) (.inr rfl) (.inr rfl) (.inr rfl) (.inr rfl) (.inr rfl) (.inr rfl)
    (.inr rfl) (.inr rfl) (.inr ⟨rfl, rfl⟩)⟩
  intro r hr
  have hx : ¬ x = r := fun e => hr (by simp [e])
  have hv : ¬ VF = r := fun e => hr (by simp [e])
  rw [State.reg_writeFlagged, if_neg hv, if_neg hx]

/-- One register written and PC moved: every other register and every part is as it was. -/
theorem State.unchangedBut_setReg (s : State) (x : Reg) (b : Byte) :
    UnchangedBut [x] [] s (s.setReg x b).advance := by
  refine unchangedBut_of_fields ?_ (.inr rfl) (.inr rfl) (.inr rfl) (.inr rfl) (.inr rfl) (.inr rfl) (.inr rfl)
    (.inr rfl) (.inr rfl) (.inr ⟨rfl, rfl⟩)
  intro r hr
  have hx : ¬ x = r := fun e => hr (by simp [e])
  rw [State.reg_advance, State.reg_setReg, if_neg hx]

/-- A written register reads what was written. -/
theorem State.reg_setReg_self (s : State) (x : Reg) (b : Byte) : ((s.setReg x b).advance).reg x = b := by
  rw [State.reg_advance, State.reg_setReg, if_pos rfl]

/-- PC alone moved: every register and every part is as it was. -/
theorem State.unchangedBut_setPc (s : State) (w : Word) : UnchangedBut [] [] s (s.setPc w) :=
  unchangedBut_of_fields (fun r _ => State.reg_congr rfl r) (.inr rfl) (.inr rfl) (.inr rfl) (.inr rfl) (.inr rfl)
    (.inr rfl) (.inr rfl) (.inr rfl) (.inr rfl) (.inr ⟨rfl, rfl⟩)

end Sys2Proof.Machine
end

