-- ==== Sys2Proof/Laws/PerInstr.lean ====
section
/-! SUPPORT. One family of lemmas, an instruction a lemma: its word lies in its own row of the opcode map (R56:
`word AND mask = match`), and the instruction is well formed. -/

namespace Sys2Proof.Laws.OpcodeRow

/-- The instruction is well formed and its word is its row's: `word AND mask = match` (R56). -/
def Statement (i : Instr) : Prop :=
  i.wellFormed = true ∧ encode i &&& i.opcodeRow.2 = i.opcodeRow.1

/-- A register number is one. -/
theorem isSome_regOf (x : Reg) : (regOf x.val).isSome = true := by simp [regOf]

/-- A row count is one. -/
theorem isSome_countOf (n : Fin 16) : (countOf n.val).isSome = true := by simp [countOf]

/-- An 8-bit immediate is one. -/
theorem isSome_immOf (b : Byte) : (immOf b.toNat).isSome = true := by
  have h : b.toNat < 256 := b.isLt
  simp [immOf, h]

/-- A 12-bit address is one. -/
theorem isSome_addrOf (a : Addr12) : (addrOf a.toNat).isSome = true := by
  have h : a.toNat < 4096 := a.isLt
  simp [addrOf, h]

/-- The mask of a row that fixes the class alone keeps the class and nothing else. -/
theorem and_classMask (w : Word) : w &&& 0xF000#16 = BitVec.ofNat 16 (fieldClass w * 4096) := by
  have e : w &&& 0xF000#16 = (w >>> 12) <<< 12 := by
    ext i hi
    interval_cases i <;> simp
  apply BitVec.eq_of_toNat_eq
  rw [e, BitVec.toNat_shiftLeft, BitVec.toNat_ushiftRight, fieldClass_eq, Nat.shiftRight_eq_div_pow, Nat.shiftLeft_eq,
    BitVec.toNat_ofNat]

/-- The row 0x00E0 / 0xFFFF. -/
theorem cls : Statement (.cls) :=
  ⟨rfl,
   rfl⟩

/-- The row 0x00EE / 0xFFFF. -/
theorem ret : Statement (.ret) :=
  ⟨rfl,
   rfl⟩

/-- The row 0x1000 / 0xF000. -/
theorem jp (nnn : Addr12) : Statement (.jp nnn) :=
  ⟨by simp [Instr.wellFormed, isSome_addrOf],
   (and_classMask _).trans (by rw [show fieldClass (encode (.jp nnn)) = 1 from fieldClass_formNnn (by decide) _]; rfl)⟩

/-- The row 0x2000 / 0xF000. -/
theorem call (nnn : Addr12) : Statement (.call nnn) :=
  ⟨by simp [Instr.wellFormed, isSome_addrOf],
   (and_classMask _).trans (by rw [show fieldClass (encode (.call nnn)) = 2 from fieldClass_formNnn (by decide) _]; rfl)⟩

/-- The row 0x3000 / 0xF000. -/
theorem seImm (x : Reg) (kk : Byte) : Statement (.seImm x kk) :=
  ⟨by simp [Instr.wellFormed, isSome_immOf, isSome_regOf],
   (and_classMask _).trans (by rw [show fieldClass (encode (.seImm x kk)) = 3 from fieldClass_formXkk (by decide) _ _]; rfl)⟩

/-- The row 0x4000 / 0xF000. -/
theorem sneImm (x : Reg) (kk : Byte) : Statement (.sneImm x kk) :=
  ⟨by simp [Instr.wellFormed, isSome_immOf, isSome_regOf],
   (and_classMask _).trans (by rw [show fieldClass (encode (.sneImm x kk)) = 4 from fieldClass_formXkk (by decide) _ _]; rfl)⟩

/-- The row 0x5000 / 0xF00F. -/
theorem seReg (x : Reg) (y : Reg) : Statement (.seReg x y) :=
  ⟨by simp [Instr.wellFormed, isSome_regOf],
   by revert x y; decide⟩

/-- The row 0x6000 / 0xF000. -/
theorem ldImm (x : Reg) (kk : Byte) : Statement (.ldImm x kk) :=
  ⟨by simp [Instr.wellFormed, isSome_immOf, isSome_regOf],
   (and_classMask _).trans (by rw [show fieldClass (encode (.ldImm x kk)) = 6 from fieldClass_formXkk (by decide) _ _]; rfl)⟩

/-- The row 0x7000 / 0xF000. -/
theorem addImm (x : Reg) (kk : Byte) : Statement (.addImm x kk) :=
  ⟨by simp [Instr.wellFormed, isSome_immOf, isSome_regOf],
   (and_classMask _).trans (by rw [show fieldClass (encode (.addImm x kk)) = 7 from fieldClass_formXkk (by decide) _ _]; rfl)⟩

/-- The row 0x8000 / 0xF00F. -/
theorem ldReg (x : Reg) (y : Reg) : Statement (.ldReg x y) :=
  ⟨by simp [Instr.wellFormed, isSome_regOf],
   by revert x y; decide⟩

/-- The row 0x8001 / 0xF00F. -/
theorem orReg (x : Reg) (y : Reg) : Statement (.orReg x y) :=
  ⟨by simp [Instr.wellFormed, isSome_regOf],
   by revert x y; decide⟩

/-- The row 0x8002 / 0xF00F. -/
theorem andReg (x : Reg) (y : Reg) : Statement (.andReg x y) :=
  ⟨by simp [Instr.wellFormed, isSome_regOf],
   by revert x y; decide⟩

/-- The row 0x8003 / 0xF00F. -/
theorem xorReg (x : Reg) (y : Reg) : Statement (.xorReg x y) :=
  ⟨by simp [Instr.wellFormed, isSome_regOf],
   by revert x y; decide⟩

/-- The row 0x8004 / 0xF00F. -/
theorem addReg (x : Reg) (y : Reg) : Statement (.addReg x y) :=
  ⟨by simp [Instr.wellFormed, isSome_regOf],
   by revert x y; decide⟩

/-- The row 0x8005 / 0xF00F. -/
theorem sub (x : Reg) (y : Reg) : Statement (.sub x y) :=
  ⟨by simp [Instr.wellFormed, isSome_regOf],
   by revert x y; decide⟩

/-- The row 0x8006 / 0xF00F. -/
theorem shr (x : Reg) (y : Reg) : Statement (.shr x y) :=
  ⟨by simp [Instr.wellFormed, isSome_regOf],
   by revert x y; decide⟩

/-- The row 0x8007 / 0xF00F. -/
theorem subn (x : Reg) (y : Reg) : Statement (.subn x y) :=
  ⟨by simp [Instr.wellFormed, isSome_regOf],
   by revert x y; decide⟩

/-- The row 0x800E / 0xF00F. -/
theorem shl (x : Reg) (y : Reg) : Statement (.shl x y) :=
  ⟨by simp [Instr.wellFormed, isSome_regOf],
   by revert x y; decide⟩

/-- The row 0x9000 / 0xF00F. -/
theorem sneReg (x : Reg) (y : Reg) : Statement (.sneReg x y) :=
  ⟨by simp [Instr.wellFormed, isSome_regOf],
   by revert x y; decide⟩

/-- The row 0xA000 / 0xF000. -/
theorem ldI (nnn : Addr12) : Statement (.ldI nnn) :=
  ⟨by simp [Instr.wellFormed, isSome_addrOf],
   (and_classMask _).trans (by rw [show fieldClass (encode (.ldI nnn)) = 10 from fieldClass_formNnn (by decide) _]; rfl)⟩

/-- The row 0xB000 / 0xF000. -/
theorem jpV0 (nnn : Addr12) : Statement (.jpV0 nnn) :=
  ⟨by simp [Instr.wellFormed, isSome_addrOf],
   (and_classMask _).trans (by rw [show fieldClass (encode (.jpV0 nnn)) = 11 from fieldClass_formNnn (by decide) _]; rfl)⟩

/-- The row 0xC000 / 0xF000. -/
theorem rnd (x : Reg) (kk : Byte) : Statement (.rnd x kk) :=
  ⟨by simp [Instr.wellFormed, isSome_immOf, isSome_regOf],
   (and_classMask _).trans (by rw [show fieldClass (encode (.rnd x kk)) = 12 from fieldClass_formXkk (by decide) _ _]; rfl)⟩

/-- The row 0xD000 / 0xF000. -/
theorem drw (x : Reg) (y : Reg) (n : Fin 16) : Statement (.drw x y n) :=
  ⟨by simp [Instr.wellFormed, isSome_countOf, isSome_regOf],
   (and_classMask _).trans (by rw [show fieldClass (encode (.drw x y n)) = 13 from fieldClass_formXyn (by decide) _ _ _]; rfl)⟩

/-- The row 0xE09E / 0xF0FF. -/
theorem skp (x : Reg) : Statement (.skp x) :=
  ⟨by simp [Instr.wellFormed, isSome_regOf],
   by revert x; decide⟩

/-- The row 0xE0A1 / 0xF0FF. -/
theorem sknp (x : Reg) : Statement (.sknp x) :=
  ⟨by simp [Instr.wellFormed, isSome_regOf],
   by revert x; decide⟩

/-- The row 0xF007 / 0xF0FF. -/
theorem ldVxDt (x : Reg) : Statement (.ldVxDt x) :=
  ⟨by simp [Instr.wellFormed, isSome_regOf],
   by revert x; decide⟩

/-- The row 0xF00A / 0xF0FF. -/
theorem ldVxK (x : Reg) : Statement (.ldVxK x) :=
  ⟨by simp [Instr.wellFormed, isSome_regOf],
   by revert x; decide⟩

/-- The row 0xF015 / 0xF0FF. -/
theorem ldDtVx (x : Reg) : Statement (.ldDtVx x) :=
  ⟨by simp [Instr.wellFormed, isSome_regOf],
   by revert x; decide⟩

/-- The row 0xF018 / 0xF0FF. -/
theorem ldStVx (x : Reg) : Statement (.ldStVx x) :=
  ⟨by simp [Instr.wellFormed, isSome_regOf],
   by revert x; decide⟩

/-- The row 0xF01E / 0xF0FF. -/
theorem addI (x : Reg) : Statement (.addI x) :=
  ⟨by simp [Instr.wellFormed, isSome_regOf],
   by revert x; decide⟩

/-- The row 0xF029 / 0xF0FF. -/
theorem ldF (x : Reg) : Statement (.ldF x) :=
  ⟨by simp [Instr.wellFormed, isSome_regOf],
   by revert x; decide⟩

/-- The row 0xF033 / 0xF0FF. -/
theorem ldB (x : Reg) : Statement (.ldB x) :=
  ⟨by simp [Instr.wellFormed, isSome_regOf],
   by revert x; decide⟩

/-- The row 0xF055 / 0xF0FF. -/
theorem stBlock (x : Reg) : Statement (.stBlock x) :=
  ⟨by simp [Instr.wellFormed, isSome_regOf],
   by revert x; decide⟩

/-- The row 0xF065 / 0xF0FF. -/
theorem ldBlock (x : Reg) : Statement (.ldBlock x) :=
  ⟨by simp [Instr.wellFormed, isSome_regOf],
   by revert x; decide⟩

end Sys2Proof.Laws.OpcodeRow
end

