-- ==== Sys2Proof/Tests/Slice0.lean ====
section
/-! SUPPORT. The tests: ill-formed operands, decoding by words written out from the spec, one-step tests with the vectors of
`spec/95_test_vectors.md` (named E<n> or T-... as there), and a witness for the hypotheses of every statement. -/

namespace Sys2Proof.Tests

open Sys2Proof Sys2Proof.Machine

/-! ### Helpers -/

/-- The next state of an outcome, if it is one. -/
def nextOf : Host.Outcome State Fault Refusal → Option State
  | .next t => some t
  | .fault _ => none
  | .refused _ => none

/-- The fault of an outcome, if it is one. -/
def faultOf : Host.Outcome State Fault Refusal → Option Fault
  | .next _ => none
  | .fault f => some f
  | .refused _ => none

/-- One cycle on a word stored at PC: what is seen of the next state. -/
def seen {α : Type} (w : Nat) (s : State) (look : State → α) : Option α :=
  (nextOf (step (s.withFetchWord 16 w))).map look

/-- One cycle on a word stored at PC: the fault. -/
def faulted (w : Nat) (s : State) : Option Fault := faultOf (step (s.withFetchWord 16 w))

/-- The reset state with some registers set. -/
def withRegs (l : List (Reg × Byte)) (s : State := State.reset) : State := l.foldl (fun s p => s.setReg p.1 p.2) s

/-- A state with some keys pressed. -/
def withKeys (l : List (Fin 16)) (s : State) : State := l.foldl (fun s k => s.setKey k true) s

/-- A state with pending calls (R14). -/
def withSp (k : Fin 16) (s : State := State.reset) : State := { s with sp := k }

/-- A state with a word in a stack slot. -/
def withSlot (k : Fin 16) (w : Word) (s : State) : State := { s with stack := s.stack.set k w }

/-- How many pixels of a row are set. -/
def litInRow (s : State) (y : Fin 32) : Nat := s.fb[y].toList.count true

/-- Every pixel is clear. -/
def allClear (s : State) : Bool := s.fb.toList.all fun row => row.toList.all fun b => !b

/-- What the decoder gives for a word, if it is an instruction. -/
def decoded (w : Word) : Option Instr := (decodeWord w).toOption

/-! ### Ill-formed operands are refused, the largest well-formed ones are not (R51) -/

theorem test_regOf_refuses : regOf 16 = none ∧ regOf 15 = some 15 := by decide
theorem test_countOf_refuses : countOf 16 = none ∧ countOf 15 = some 15 := by decide
theorem test_immOf_refuses : immOf 256 = none ∧ immOf 255 = some 0xFF := by decide
theorem test_addrOf_refuses : addrOf 4096 = none ∧ addrOf 4095 = some 0xFFF := by decide

/-! ### Decoding: words written out bit by bit from rule R56 -/

/-- Class 0: 0000 0000 1110 0000 and 0000 0000 1110 1110 (T-DRW-14, T-FLOW-8). -/
theorem test_decode_fixed :
    decodeWord 0b0000000011100000 = .ok .cls ∧ decodeWord 0b0000000011101110 = .ok .ret := by decide
/-- Classes 1, 2, A, B: class, then nnn (T-ENC-1, T-FLOW-5, T-IDX-1, T-FLOW-23). -/
theorem test_decode_nnn :
    decodeWord 0b0001001000110100 = .ok (.jp 0x234) ∧ decodeWord 0b0010101010111100 = .ok (.call 0xABC) ∧
    decodeWord 0b1010111111111111 = .ok (.ldI 0xFFF) ∧ decodeWord 0b1011000111111111 = .ok (.jpV0 0x1FF) := by decide
/-- Classes 3, 4, 6, 7, C: class, x, kk (T-FLOW-10, T-FLOW-13, E1, E4, T-ALU-42). -/
theorem test_decode_xkk :
    decodeWord 0b0011000101000010 = .ok (.seImm 1 0x42) ∧ decodeWord 0b0100000101000011 = .ok (.sneImm 1 0x43) ∧
    decodeWord 0b0110111110100101 = .ok (.ldImm 15 0xA5) ∧ decodeWord 0b0111000111111111 = .ok (.addImm 1 0xFF) ∧
    decodeWord 0b1100000100001111 = .ok (.rnd 1 0x0F) := by decide
/-- Classes 5, 9 and the first half of class 8: class, x, y, selector (T-FLOW-14, T-FLOW-17, T-ALU-5 to T-ALU-8, T-ENC-3). -/
theorem test_decode_xy :
    decodeWord 0b0101000100100000 = .ok (.seReg 1 2) ∧ decodeWord 0b1001000100100000 = .ok (.sneReg 1 2) ∧
    decodeWord 0b1000000100100000 = .ok (.ldReg 1 2) ∧ decodeWord 0b1000000100100001 = .ok (.orReg 1 2) ∧
    decodeWord 0b1000000100100010 = .ok (.andReg 1 2) ∧ decodeWord 0b1000000100100011 = .ok (.xorReg 1 2) ∧
    decodeWord 0b1000101010110100 = .ok (.addReg 10 11) := by decide
/-- The rest of class 8 (T-ALU-17, T-ALU-35, T-ALU-24, T-ALU-41). -/
theorem test_decode_alu :
    decodeWord 0b1000000100100101 = .ok (.sub 1 2) ∧ decodeWord 0b1000000111110110 = .ok (.shr 1 15) ∧
    decodeWord 0b1000000100100111 = .ok (.subn 1 2) ∧ decodeWord 0b1000111100011110 = .ok (.shl 15 1) := by decide
/-- Class D: class, x, y, n (T-ENC-2). -/
theorem test_decode_xyn : decodeWord 0b1101000100101111 = .ok (.drw 1 2 15) := by decide
/-- Class E: class, x, selector (T-KEY-1, T-ENC-5). -/
theorem test_decode_keys :
    decodeWord 0b1110010110011110 = .ok (.skp 5) ∧ decodeWord 0b1110000010100001 = .ok (.sknp 0) := by decide
/-- Class F: class, x, selector (T-TMR-6, E11, T-TMR-1, T-TMR-5, T-IDX-2). -/
theorem test_decode_timers :
    decodeWord 0b1111000100000111 = .ok (.ldVxDt 1) ∧ decodeWord 0b1111001100001010 = .ok (.ldVxK 3) ∧
    decodeWord 0b1111000000010101 = .ok (.ldDtVx 0) ∧ decodeWord 0b1111000000011000 = .ok (.ldStVx 0) ∧
    decodeWord 0b1111001100011110 = .ok (.addI 3) := by decide
/-- The rest of class F (T-IDX-6, E7, E8, T-ENC-4). -/
theorem test_decode_memory :
    decodeWord 0b1111000000101001 = .ok (.ldF 0) ∧ decodeWord 0b1111000000110011 = .ok (.ldB 0) ∧
    decodeWord 0b1111001101010101 = .ok (.stBlock 3) ∧ decodeWord 0b1111111001100101 = .ok (.ldBlock 14) := by decide
/-- T-ENC-6 and T-ENC-7: words that match no row. -/
theorem test_decode_illegal :
    ∀ w ∈ [0x0000, 0x00E1, 0x0123, 0x00FF, 0x5121, 0x912F, 0x8128, 0x812F, 0xE19F, 0xE000, 0xF1FF, 0xF000, 0xF075],
      decodeWord (BitVec.ofNat 16 w) = .error (.illegal (BitVec.ofNat 16 w)) := by decide
/-- R35: the high byte comes first; one byte is no instruction. -/
theorem test_decode_bytes :
    decodeBytes [0x12, 0x34, 0xAB] = .ok (.jp 0x234, [0xAB]) ∧ decodeBytes [0x12] = .error .truncated := by decide
/-- The host's numbering: bit 0 is the word's least significant bit. -/
theorem test_decodeTableWord : decodeTableWord 16 0x1234 = some (.jp 0x234) ∧ decodeTableWord 16 0x0000 = none := by decide
/-- A stored table word is what the very next step runs. -/
theorem test_withFetchWord :
    (State.reset.withFetchWord 16 0x1234).fetchWord = 0x1234 ∧ (State.reset.withFetchWord 16 0x1234).mem.wf = true := by decide

/-! ### One cycle: display -/

/-- T-DRW-14. -/
theorem test_cls_clears :
    seen 0x00E0 (withRegs [(15, 1)] (State.reset.show (State.reset.fb.setPixel 63 31 true)))
      (fun t => (allClear t, t.reg 15, t.ch, t.pc)) = some (true, 1, true, 0x202) := by decide
/-- T-DRW-15. -/
theorem test_cls_raises_changed : seen 0x00E0 State.reset (fun t => t.ch) = some true := by decide

/-- The bytes `81 FF` at 0x300 (T-DRW-2, T-DRW-3). -/
def spriteState : State := (State.reset.storeBytes 0x300 [0x81, 0xFF]).setI 0x300

/-- T-DRW-3: both coordinates wrap, pixel by pixel. -/
theorem test_drw_wraps :
    seen 0xD122 (withRegs [(1, 255), (2, 255)] spriteState)
      (fun t => ([litInRow t 31, litInRow t 0, litInRow t 1], [t.pixel 63 31, t.pixel 6 31, t.pixel 63 0, t.pixel 0 0, t.pixel 6 0],
        t.reg 15, t.ch)) = some ([2, 8, 0], [true, true, true, true, true], 0, true) := by decide
/-- E9, the second draw: every pixel back, and a collision. -/
theorem test_drw_collides :
    seen 0xD121 (withRegs [(1, 63), (2, 31)] ((State.reset.storeBytes 0x300 [0xC0]).setI 0x300 |>.show
        ((State.reset.fb.setPixel 63 31 true).setPixel 0 31 true)))
      (fun t => (allClear t, t.reg 15, t.ch, t.pc)) = some (true, 1, true, 0x202) := by decide

/-! ### One cycle: control transfer -/

/-- T-FLOW-7. -/
theorem test_ret_returns :
    seen 0x00EE (withSp 1 (withSlot 0 0x204 (State.reset.setPc 0x212))) (fun t => (t.sp, t.pc, t.slot 0)) =
      some (0, 0x206, 0x204) := by decide
/-- T-FLOW-8. -/
theorem test_ret_underflow : faulted 0x00EE State.reset = some (.stackUnderflow 0) := by decide
/-- T-FLOW-3: the target is not checked; the next fetch is. -/
theorem test_jp_unchecked :
    seen 0x1FFF State.reset (fun t => (t.pc, faultOf (step t))) = some (0xFFF, some (.fetchOutOfRange 0xFFF)) := by decide
/-- T-FLOW-6: the 15th pending call fits. -/
theorem test_call_last :
    seen 0x2ABC (withSp 14) (fun t => (t.slot 14, t.sp, t.pc)) = some (0x200, 15, 0xABC) := by decide
/-- T-FLOW-9. -/
theorem test_call_overflow : faulted 0x2ABC (withSp 15) = some (.stackOverflow 15) := by decide
/-- T-FLOW-10, T-FLOW-11. -/
theorem test_seImm :
    seen 0x3142 (withRegs [(1, 0x42)]) (fun t => t.pc) = some 0x204 ∧
    seen 0x3143 (withRegs [(1, 0x42)]) (fun t => t.pc) = some 0x202 := by decide
/-- T-FLOW-21: PC is not masked. -/
theorem test_seImm_top : seen 0x3100 (State.reset.setPc 0xFFE) (fun t => t.pc) = some 0x1002 := by decide
/-- T-FLOW-12, T-FLOW-13. -/
theorem test_sneImm :
    seen 0x4142 (withRegs [(1, 0x42)]) (fun t => t.pc) = some 0x202 ∧
    seen 0x4143 (withRegs [(1, 0x42)]) (fun t => t.pc) = some 0x204 := by decide
/-- T-FLOW-14, T-FLOW-15. -/
theorem test_seReg :
    seen 0x5120 (withRegs [(1, 7), (2, 7)]) (fun t => t.pc) = some 0x204 ∧
    seen 0x5120 (withRegs [(1, 7), (2, 8)]) (fun t => t.pc) = some 0x202 := by decide
/-- T-FLOW-17, T-FLOW-18. -/
theorem test_sneReg :
    seen 0x9120 (withRegs [(1, 7), (2, 8)]) (fun t => t.pc) = some 0x204 ∧
    seen 0x9120 (withRegs [(1, 7), (2, 7)]) (fun t => t.pc) = some 0x202 := by decide
/-- T-FLOW-24: the sum is not reduced. -/
theorem test_jpV0_above : seen 0xBFFF (withRegs [(0, 0xFF)]) (fun t => t.pc) = some 0x10FE := by decide
/-- T-FLOW-23: the offset register is V0. -/
theorem test_jpV0_reg : seen 0xB1FF (withRegs [(0, 0xFF), (1, 0x77)]) (fun t => t.pc) = some 0x2FE := by decide

/-! ### One cycle: loads, arithmetic, logic, shifts, random -/

/-- E1. -/
theorem test_ldImm : seen 0x6FA5 State.reset (fun t => (t.reg 15, t.pc)) = some (0xA5, 0x202) := by decide
/-- E4: no flag. -/
theorem test_addImm_wraps : seen 0x71FF (withRegs [(1, 0x12), (15, 1)]) (fun t => (t.reg 1, t.reg 15)) = some (0x11, 1) := by decide
/-- T-ALU-4: VF as a plain register. -/
theorem test_addImm_vf : seen 0x7F03 (withRegs [(15, 5)]) (fun t => t.reg 15) = some 8 := by decide
/-- T-ALU-5. -/
theorem test_ldReg : seen 0x8120 (withRegs [(2, 0x5A)]) (fun t => (t.reg 1, t.reg 2)) = some (0x5A, 0x5A) := by decide

/-- The operands of T-ALU-6 to T-ALU-8. -/
def logicState : State := withRegs [(1, 0xF0), (2, 0x3C), (15, 1)]

/-- T-ALU-6. -/
theorem test_orReg : seen 0x8121 logicState (fun t => (t.reg 1, t.reg 15)) = some (0xFC, 1) := by decide
/-- T-ALU-7. -/
theorem test_andReg : seen 0x8122 logicState (fun t => (t.reg 1, t.reg 15)) = some (0x30, 1) := by decide
/-- T-ALU-8. -/
theorem test_xorReg : seen 0x8123 logicState (fun t => (t.reg 1, t.reg 15)) = some (0xCC, 1) := by decide
/-- T-ALU-11: the sum 256. -/
theorem test_addReg_carry : seen 0x8124 (withRegs [(1, 0xFF), (2, 1)]) (fun t => (t.reg 1, t.reg 15)) = some (0, 1) := by decide
/-- T-ALU-14: the flag is the later write. -/
theorem test_addReg_vf : seen 0x8F14 (withRegs [(15, 0x10), (1, 0xF5)]) (fun t => t.reg 15) = some 1 := by decide
/-- E6. -/
theorem test_sub_borrow : seen 0x8125 (withRegs [(1, 0x12), (2, 0x34)]) (fun t => (t.reg 1, t.reg 15)) = some (0xDE, 1) := by decide
/-- T-ALU-17: equal operands. -/
theorem test_sub_equal : seen 0x8125 (withRegs [(1, 0x50), (2, 0x50)]) (fun t => (t.reg 1, t.reg 15)) = some (0, 0) := by decide
/-- T-ALU-28: the operand is V2. -/
theorem test_shr : seen 0x8126 (withRegs [(1, 0xAA), (2, 5)]) (fun t => (t.reg 1, t.reg 2, t.reg 15)) = some (2, 5, 1) := by decide
/-- T-ALU-34: VF as destination. -/
theorem test_shr_vf : seen 0x8F16 (withRegs [(15, 0x55), (1, 6)]) (fun t => t.reg 15) = some 0 := by decide
/-- T-ALU-24. -/
theorem test_subn_borrow : seen 0x8127 (withRegs [(1, 0x34), (2, 0x12)]) (fun t => (t.reg 1, t.reg 15)) = some (0xDE, 1) := by decide
/-- T-ALU-26. -/
theorem test_subn_equal : seen 0x8127 (withRegs [(1, 0x50), (2, 0x50)]) (fun t => (t.reg 1, t.reg 15)) = some (0, 0) := by decide
/-- T-ALU-36. -/
theorem test_shl : seen 0x812E (withRegs [(1, 0xAA), (2, 0x81)]) (fun t => (t.reg 1, t.reg 2, t.reg 15)) = some (2, 0x81, 1) := by decide
/-- T-ALU-41. -/
theorem test_shl_vf : seen 0x8F1E (withRegs [(15, 0x55), (1, 0x40)]) (fun t => t.reg 15) = some 0 := by decide
/-- T-ALU-42: the cycle's random byte under the mask. -/
theorem test_rnd : seen 0xC10F ((withRegs [(1, 0xEE)]).givenInputs true 0xB7) (fun t => t.reg 1) = some 7 := by decide
/-- T-ALU-43. -/
theorem test_rnd_zero : seen 0xC100 ((withRegs [(1, 0xEE)]).givenInputs true 0xFF) (fun t => t.reg 1) = some 0 := by decide

/-! ### One cycle: index register and memory -/

/-- T-IDX-1. -/
theorem test_ldI : seen 0xAFFF State.reset (fun t => (t.i, t.pc)) = some (0xFFF, 0x202) := by decide
/-- T-IDX-3: past 12 bits without a flag. -/
theorem test_addI : seen 0xF31E ((withRegs [(3, 1)]).setI 0xFFF) (fun t => (t.i, t.reg 15)) = some (0x1000, 0) := by decide
/-- T-IDX-4: modulo 65536. -/
theorem test_addI_wraps : seen 0xF31E ((withRegs [(3, 0xFF)]).setI 0xFF80) (fun t => t.i) = some 0x007F := by decide
/-- T-IDX-6. -/
theorem test_ldF : seen 0xF029 ((withRegs [(0, 0x0A)]).setI 0x123) (fun t => t.i) = some 0x32 := by decide
/-- T-IDX-9: the whole byte is the digit. -/
theorem test_ldF_fault : faulted 0xF029 (withRegs [(0, 0x10)]) = some (.invalidFontDigit 0x10) := by decide
/-- E7. -/
theorem test_ldB :
    seen 0xF033 ((withRegs [(0, 0xAB)]).setI 0x300)
      (fun t => (t.readByte 0x300, t.readByte 0x301, t.readByte 0x302, t.i)) = some (1, 7, 1, 0x300) := by decide
/-- T-IDX-12. -/
theorem test_ldB_fault : faulted 0xF033 ((withRegs [(0, 255)]).setI 0xFFE) = some (.memOutOfRange 0x1000) := by decide

/-- `V[i] = 0xA0 + i` (T-IDX-15). -/
def rampState : State := State.reset.setRegs (Vector.ofFn fun r : Fin 16 => BitVec.ofNat 8 (0xA0 + r.val))

/-- T-IDX-15: all 16 registers at the last 16 bytes. -/
theorem test_stBlock :
    seen 0xFF55 (rampState.setI 0xFF0) (fun t => (t.readByte 0xFEF, t.readByte 0xFF0, t.readByte 0xFFF, t.i)) =
      some (0, 0xA0, 0xAF, 0xFF0) := by decide
/-- T-IDX-14: all or nothing. -/
theorem test_stBlock_fault : faulted 0xF155 ((withRegs [(0, 0x7E)]).setI 0xFFF) = some (.memOutOfRange 0x1000) := by decide
/-- E8: V4 is not loaded. -/
theorem test_ldBlock :
    seen 0xF365 ((withRegs [(4, 0x99)] (State.reset.storeBytes 0x300 [0xDE, 0xAD, 0xBE, 0xEF, 0x55])).setI 0x300)
      (fun t => (t.reg 0, t.reg 1, t.reg 2, t.reg 3, t.reg 4, t.i)) = some (0xDE, 0xAD, 0xBE, 0xEF, 0x99, 0x300) := by decide
/-- T-IDX-19: where `I` itself is outside, `info` is `I`. -/
theorem test_ldBlock_fault : faulted 0xF365 (State.reset.setI 0x1234) = some (.memOutOfRange 0x1234) := by decide

/-! ### One cycle: keypad and timers -/

/-- T-KEY-1. -/
theorem test_skp :
    seen 0xE59E (withKeys [3, 9] (withRegs [(5, 3)])) (fun t => (t.pc, t.keyDown 3, t.keyDown 9)) =
      some (0x204, false, true) := by decide
/-- T-KEY-6. -/
theorem test_skp_fault : faulted 0xE59E (withRegs [(5, 0x10)]) = some (.invalidKeyIndex 0x10) := by decide
/-- T-KEY-3: consumed here too. -/
theorem test_sknp :
    seen 0xE5A1 (withKeys [3, 9] (withRegs [(5, 3)])) (fun t => (t.pc, t.keyDown 3, t.keyDown 9)) =
      some (0x202, false, true) := by decide
/-- T-KEY-7: not masked. -/
theorem test_sknp_fault : faulted 0xE5A1 (withRegs [(5, 0xFF)]) = some (.invalidKeyIndex 0xFF) := by decide
/-- T-KEY-9: the lowest index, all flags cleared. -/
theorem test_ldVxK :
    seen 0xF60A (withKeys [3, 9] (withRegs [(6, 0xEE)])) (fun t => (t.reg 6, t.keyDown 3, t.keyDown 9, t.pc)) =
      some (3, false, false, 0x202) := by decide
/-- T-KEY-12: a waiting cycle steps the timers. -/
theorem test_ldVxK_waits : seen 0xF60A (State.reset.setDt 5) (fun t => (t.pc, t.dt)) = some (0x200, 4) := by decide
/-- T-TMR-6: read before the step. -/
theorem test_ldVxDt :
    seen 0xF107 ((State.reset.setDt 2).setSt 1) (fun t => (t.reg 1, t.dt, t.st)) = some (2, 1, 0) := by decide
/-- T-TMR-7: no tick. -/
theorem test_ldVxDt_untimed :
    seen 0xF107 (((State.reset.setDt 2).setSt 1).givenInputs false 0) (fun t => (t.reg 1, t.dt, t.st)) = some (2, 2, 1) := by decide
/-- T-TMR-1 and T-TMR-4: written, then stepped, stopping at 0. -/
theorem test_ldDtVx :
    seen 0xF015 (withRegs [(0, 3)]) (fun t => t.dt) = some 2 ∧ seen 0xF015 State.reset (fun t => t.dt) = some 0 := by decide
/-- T-TMR-5, and `sound_active`. -/
theorem test_ldStVx : seen 0xF018 (withRegs [(0, 0x10)]) (fun t => (t.st, t.soundActive)) = some (0x0F, true) := by decide

/-! ### The host's moves -/

/-- T-TMR-10: a failing cycle steps no timer. -/
theorem test_host_fault :
    (hostStep (.runCycle true 0) (State.reset.setDt 5)).2 = .failure 2 0 ∧
    (hostStep (.runCycle true 0) (State.reset.setDt 5)).1.dt = 5 := by decide
/-- T-HOST-5. -/
theorem test_host_load :
    ((hostStep (.loadProgram [0x12, 0x00, 0xAB]) State.reset).1.readByte 0x202,
     (hostStep (.loadProgram [0x12, 0x00, 0xAB]) State.reset).1.readByte 0x203) = (0xAB, 0) := by decide
/-- T-HOST-8. -/
theorem test_host_changed :
    (hostStep .readChanged (hostRun [.loadProgram [0x00, 0xE0], .runCycle true 0] State.reset)).2 = .changed true ∧
    (hostStep .readChanged (hostStep .clearChanged State.reset).1).2 = .changed false := by decide
/-- T-HOST-1: the first and last glyph of the default font. -/
theorem test_host_initialize :
    State.reset.readByte 0 = 0xF0 ∧ State.reset.readByte 1 = 0x90 ∧ State.reset.readByte 76 = 0x80 ∧
    State.reset.readByte 79 = 0x80 ∧ State.reset.readByte 80 = 0 := by decide

/-! ### Witnesses: every statement's hypotheses can hold, at the boundary values of each clause -/

/-- `Fetches` of a concrete state, from its two decidable parts. -/
theorem fetches_intro {s : State} {i : Instr} (h : s.fetchCheck = none) (d : decodeWord s.fetchWord = .ok i) : s.Fetches i := by
  refine ⟨?_, d⟩
  unfold State.fetchCheck at h
  split at h
  · cases h
  · omega

/-- The word `F0` of glyph 0 drawn at the origin touches the cell (0, 0) and not the cell (4, 0). -/
theorem witness_touches : State.reset.Touches 0 0 1 0 0 ∧ ¬ State.reset.Touches 0 0 1 4 0 := by
  refine ⟨⟨0, by decide, 0, by decide, by decide, by decide, by decide⟩, ?_⟩
  rintro ⟨row, hr, col, hc, hb, hx, -⟩
  have : row = 0 := by omega
  subst this
  have : ∀ col < 8, (State.reset.readByte (State.reset.i.toNat + 0)).getLsbD (7 - col) = true → ((0 : Byte).toNat + col) % 64 ≠ 4 := by
    decide
  exact this col hc hb hx

/-- DrawSprite: the last sprite that fits, the first that does not, and no rows at the largest `I` (T-DRW-13, T-DRW-9). -/
theorem witness_DrawSprite_bounds :
    ((State.reset.setI 0xFF1).i.toNat + (15 : Fin 16).val - 1 ≤ 4095) ∧
    (0 < (15 : Fin 16).val ∧ 4095 < (State.reset.setI 0xFF2).i.toNat + (15 : Fin 16).val - 1) ∧
    (1 : Fin 16).val ≠ 0 ∧ (State.reset.setI 0xFFF).i.toNat + (1 : Fin 16).val - 1 ≤ 4095 ∧
    ((0 : Fin 16).val = 0 ∧ (State.reset.setI 0xFFFF).i.toNat = 0xFFFF) := by decide
/-- DrawSprite: a touched cell that is set; at reset every touched cell is clear. -/
theorem witness_DrawSprite_collision :
    (∃ s : State, ∃ px py, s.Touches (s.reg 0) (s.reg 1) 1 px py ∧ s.pixel px py = true) ∧
    (∀ px py, State.reset.Touches (State.reset.reg 0) (State.reset.reg 1) 1 px py → State.reset.pixel px py = false) := by
  refine ⟨⟨State.reset.show (State.reset.fb.setPixel 0 0 true), 0, 0,
    ⟨0, by decide, 0, by decide, by decide, by decide, by decide⟩, by decide⟩, fun px py _ => ?_⟩
  simp [State.pixel, State.reset, Framebuffer.pixel]
/-- ReturnPopsCallSite: empty, one pending call, and the most. -/
theorem witness_ReturnPopsCallSite :
    State.reset.sp = 0 ∧ (withSp 1).sp.val = (0 : Fin 16).val + 1 ∧ (withSp 15).sp.val = (14 : Fin 16).val + 1 := by decide
/-- CallPushesCallSite: full, the last that fits, and empty. -/
theorem witness_CallPushesCallSite :
    (withSp 15).sp.val = 15 ∧ (withSp 14).sp.val < 15 ∧ State.reset.sp.val < 15 ∧ (0 : Fin 16) ≠ (withSp 14).sp := by decide
/-- CompareSkipsAdvance: a low nibble other than 0, and both outcomes of each comparison. -/
theorem witness_CompareSkipsAdvance :
    (1 : Fin 16) ≠ 0 ∧ (15 : Fin 16) ≠ 0 ∧ State.reset.reg 1 = 0 ∧ State.reset.reg 1 ≠ 0x42 ∧
    State.reset.reg 1 = State.reset.reg 2 ∧ (withRegs [(1, 7)]).reg 1 ≠ (withRegs [(1, 7)]).reg 2 := by decide
/-- CopyAndLogic: a bit index in range, the lowest and the highest. -/
theorem witness_CopyAndLogic : (0 : Nat) < 8 ∧ (7 : Nat) < 8 := by decide
/-- AddSetsCarry, SubtractSetsBorrow, ReverseSubtractSetsBorrow, ShiftsMoveVy: a destination other than VF, and both values of the flag's condition
(T-ALU-10, T-ALU-11, E6). -/
theorem witness_flags :
    (14 : Reg) ≠ VF ∧
    ((withRegs [(1, 0xFF), (2, 1)]).reg 1).toNat + ((withRegs [(1, 0xFF), (2, 1)]).reg 2).toNat > 255 ∧
    ((withRegs [(1, 0xFF)]).reg 1).toNat + ((withRegs [(1, 0xFF)]).reg 2).toNat = 255 ∧
    ((withRegs [(1, 0x12), (2, 0x34)]).reg 2).toNat > ((withRegs [(1, 0x12), (2, 0x34)]).reg 1).toNat := by decide
/-- RandomIsMasked: a state whose host gave the cycle's inputs. -/
theorem witness_RandomIsMasked :
    (State.reset.givenInputs true 0xB7).inputs = [{ tick := true, rnd := 0xB7 }] ∧
    (State.reset.givenInputs true 0xB7).rndInput = 0xB7 := by decide
/-- FontAddress and KeySkipsConsume: the largest index and the first that faults. -/
theorem witness_sixteen :
    ((withRegs [(0, 15)]).reg 0).toNat ≤ 15 ∧ ((withRegs [(0, 15)]).reg 0).toNat = (15 : Fin 16).val ∧
    ((withRegs [(0, 16)]).reg 0).toNat > 15 ∧ (3 : Fin 16) ≠ 15 := by decide
/-- StoreBcd: the last address that fits and the first that does not (T-IDX-11, T-IDX-12). -/
theorem witness_StoreBcd : (State.reset.setI 0xFFD).i.toNat + 2 ≤ 4095 ∧ (State.reset.setI 0xFFE).i.toNat + 2 > 4095 := by decide
/-- BlockStore, BlockLoad, BlockStoreThenLoad: all registers and one, at the last address that fits and the first that does
not (T-IDX-13 to T-IDX-16). -/
theorem witness_block :
    (State.reset.setI 0xFF0).i.toNat + (15 : Reg).val ≤ 4095 ∧ (State.reset.setI 0xFF1).i.toNat + (15 : Reg).val > 4095 ∧
    (State.reset.setI 0xFFF).i.toNat + (0 : Reg).val ≤ 4095 ∧ (State.reset.setI 0x1000).i.toNat + (0 : Reg).val > 4095 ∧
    (15 : Reg) ≤ 15 ∧ (0 : Reg) ≤ 0 ∧ (3 : Reg) < 4 ∧ (4096 < 0xFF0 ∨ 0xFF0 + (15 + 1) ≤ 4096) := by decide
/-- WaitForKey: no key; only the last key; two keys, the lower one least. -/
theorem witness_WaitForKey :
    (∀ k, State.reset.keyDown k = false) ∧
    ((withKeys [15] State.reset).keyDown 15 = true ∧ ∀ j : Fin 16, j < 15 → (withKeys [15] State.reset).keyDown j = false) ∧
    ((withKeys [0, 15] State.reset).keyDown 0 = true ∧ ∀ j : Fin 16, j < 0 → (withKeys [0, 15] State.reset).keyDown j = false) := by
  decide

/-- `00E0` stored at the last PC that can be fetched. -/
def lastFetch : State := (State.reset.setPc 0xFFE).withFetchWord 16 0x00E0

/-- StepRunsDecodedInstruction: an instruction that completes, at the last PC, and one that faults. -/
theorem witness_StepRunsDecodedInstruction :
    (lastFetch.pc.toNat + 1 ≤ 4095 ∧
      decodeBytes [lastFetch.readByte lastFetch.pc.toNat, lastFetch.readByte (lastFetch.pc.toNat + 1)] = .ok (.cls, []) ∧
      Instr.cls.wellFormed = true ∧ ∃ u, exec .cls lastFetch = .next u) ∧
    (∃ s : State, s.pc.toNat + 1 ≤ 4095 ∧
      decodeBytes [s.readByte s.pc.toNat, s.readByte (s.pc.toNat + 1)] = .ok (.ret, []) ∧
      Instr.ret.wellFormed = true ∧ ∃ f, exec .ret s = .fault f) :=
  ⟨⟨by decide, by decide, by decide, _, rfl⟩,
   ⟨State.reset.withFetchWord 16 0x00EE, by decide, by decide, by decide, .stackUnderflow 0, rfl⟩⟩
/-- TimersStepEveryTick: a cycle that writes `DT`, one that writes `ST`, one that writes neither. -/
theorem witness_TimersStepEveryTick :
    ((State.reset.withFetchWord 16 0xF015).Fetches (.ldDtVx 0) ∧
      (hostStep (.runCycle true 0) (State.reset.withFetchWord 16 0xF015)).2 = .ok) ∧
    ((State.reset.withFetchWord 16 0xF018).Fetches (.ldStVx 0) ∧
      (hostStep (.runCycle false 0) (State.reset.withFetchWord 16 0xF018)).2 = .ok) ∧
    (State.reset.withFetchWord 16 0x6000).Fetches (.ldImm 0 0) ∧ (∀ x, Instr.ldImm 0 0 ≠ .ldDtVx x) ∧
    (∀ x, Instr.ldImm 0 0 ≠ .ldStVx x) :=
  ⟨⟨fetches_intro (by decide) (by decide), by decide⟩, ⟨fetches_intro (by decide) (by decide), by decide⟩,
   fetches_intro (by decide) (by decide), fun _ => nofun, fun _ => nofun⟩
/-- FetchIsBoundsChecked: the first PC that faults, the last that does not, a legal and an illegal word there. -/
theorem witness_FetchIsBoundsChecked :
    4095 < (State.reset.setPc 0xFFF).pc.toNat + 1 ∧ lastFetch.pc.toNat + 1 ≤ 4095 ∧
    (0x00E0 : Word).toNat = (lastFetch.readByte lastFetch.pc.toNat).toNat * 256 + (lastFetch.readByte (lastFetch.pc.toNat + 1)).toNat ∧
    decodeWord 0x00E0 = .ok .cls ∧
    (0 : Word).toNat = (State.reset.readByte State.reset.pc.toNat).toNat * 256 + (State.reset.readByte (State.reset.pc.toNat + 1)).toNat ∧
    decodeWord 0 = .error (.illegal 0) := by decide
/-- FaultsExactlyAsListed, FailingCycleChangesNothing, FaultIgnoresInputs: each of the seven faults is raised by some cycle
(T-FLT-1 to T-FLT-7). -/
theorem witness_faults :
    faultOf (step (State.reset.setPc 0xFFF)) = some (.fetchOutOfRange 0xFFF) ∧
    faultOf (step State.reset) = some (.illegalInstruction 0) ∧
    faulted 0x2200 (withSp 15) = some (.stackOverflow 15) ∧ faulted 0x00EE State.reset = some (.stackUnderflow 0) ∧
    faulted 0xD12F (State.reset.setI 0xFF2) = some (.memOutOfRange 0x1000) ∧
    faulted 0xF029 (withRegs [(0, 16)]) = some (.invalidFontDigit 16) ∧
    faulted 0xE19E (withRegs [(1, 16)]) = some (.invalidKeyIndex 16) := by decide
/-- FailingCycleChangesNothing: a failing cycle, and a successful one. -/
theorem witness_FailingCycleChangesNothing :
    step (State.reset.givenInputs true 0) = .fault (.illegalInstruction 0) ∧
    (hostStep (.runCycle true 0) State.reset).2 ≠ .ok ∧
    (∃ t, step (lastFetch.givenInputs true 0) = .next t) := ⟨rfl, by decide, _, rfl⟩
/-- FaultIgnoresInputs. -/
theorem witness_FaultIgnoresInputs : step State.reset = .fault (.illegalInstruction 0) := rfl
/-- RandomIsMasked: a cycle of another instruction, and a Random cycle. -/
theorem witness_RandomIsMasked_cycles :
    (∀ x kk, ¬ lastFetch.Fetches (.rnd x kk)) ∧ (State.reset.withFetchWord 16 0xC10F).Fetches (.rnd 1 0x0F) := by
  refine ⟨fun x kk h => ?_, fetches_intro (by decide) (by decide)⟩
  have e : decodeWord lastFetch.fetchWord = .ok .cls := by decide
  exact absurd (e.symm.trans h.2) nofun
/-- InstructionFrame, OnlySixWriteTheFlag, PcUpdateTable: instructions that complete, a flag writer and one that is none. -/
theorem witness_exec :
    (∃ t, exec (.addReg 1 2) State.reset = .next t) ∧ writesFlag (.addReg 1 2) = true ∧
    (∃ t, exec (.ldImm 1 0xAB) State.reset = .next t) ∧ writesFlag (.ldImm 1 0xAB) = false ∧
    VF ∉ destinations (.ldImm 1 0xAB) := ⟨⟨_, rfl⟩, rfl, ⟨_, rfl⟩, rfl, by decide⟩
/-- InstructionFrame: each form that writes part of a part completes, with the addresses next to its bytes, a slot other than
SP's, a key other than the tested one, an untouched cell (`witness_touches`), and a Wait for key without a key. -/
theorem witness_InstructionFrame :
    (∃ t, exec (.ldB 0) (State.reset.setI 0xFFC) = .next t) ∧ (0xFFB < 0xFFC ∧ 0xFFC + 3 ≤ 0xFFF) ∧
    (∃ t, exec (.stBlock 15) (State.reset.setI 0xFEF) = .next t) ∧ (0xFEE < 0xFEF ∧ 0xFEF + (15 + 1) ≤ 0xFFF) ∧
    (∃ t, exec (.call 0x300) (withSp 14) = .next t) ∧ (15 : Fin 16) ≠ (withSp 14).sp ∧
    (∃ t, exec (.skp 5) (withRegs [(5, 15)]) = .next t) ∧ (∃ t, exec (.sknp 5) (withRegs [(5, 15)]) = .next t) ∧
    (14 : Fin 16) ≠ keyIndex ((withRegs [(5, 15)]).reg 5) ∧ (∃ t, exec (.drw 0 0 1) State.reset = .next t) ∧
    (∃ t, exec (.ldVxK 0) State.reset = .next t) ∧ (∀ k, State.reset.keyDown k = false) :=
  ⟨⟨_, rfl⟩, by decide, ⟨_, rfl⟩, by decide, ⟨_, rfl⟩, by decide, ⟨_, rfl⟩, ⟨_, rfl⟩, by decide, ⟨_, rfl⟩, ⟨_, rfl⟩,
   by decide⟩
/-- OnlyThreeWriteIndex: a cycle that changes `I`. -/
theorem witness_OnlyThreeWriteIndex : ∃ s t : State, step s = .next t ∧ t.i ≠ s.i :=
  ⟨State.reset.withFetchWord 16 0xAFFF, _, rfl, by decide⟩
/-- OnlyStoresChangeMemory: a cycle that changes a byte. -/
theorem witness_OnlyStoresChangeMemory : ∃ (s t : State) (a : Nat), step s = .next t ∧ t.readByte a ≠ s.readByte a :=
  ⟨(rampState.setI 0xFF0).withFetchWord 16 0xFF55, _, 0xFFF, rfl, by decide⟩
/-- StackMovesByCallAndReturn: a Call, a Return, and another instruction; a slot that changes. -/
theorem witness_StackMovesByCallAndReturn :
    (∃ s t : State, step s = .next t ∧ s.Fetches (.call 0x300) ∧ t.slot 0 ≠ s.slot 0) ∧
    (∃ s t : State, step s = .next t ∧ s.Fetches .ret) ∧
    (∃ t, step lastFetch = .next t) ∧ (∀ nnn, ¬ lastFetch.Fetches (.call nnn)) ∧ ¬ lastFetch.Fetches .ret := by
  have e : decodeWord lastFetch.fetchWord = .ok .cls := by decide
  exact ⟨⟨State.reset.withFetchWord 16 0x2300, _, rfl, fetches_intro (by decide) (by decide), by decide⟩,
    ⟨(withSp 1).withFetchWord 16 0x00EE, _, rfl, fetches_intro (by decide) (by decide)⟩, ⟨_, rfl⟩,
    fun nnn h => absurd (e.symm.trans h.2) nofun, fun h => absurd (e.symm.trans h.2) nofun⟩
/-- CoreOnlyClearsKeys: a cycle that clears a flag and keeps another. -/
theorem witness_CoreOnlyClearsKeys :
    ∃ s t : State, step s = .next t ∧ t.keyDown 9 = true ∧ t.keyDown 3 ≠ s.keyDown 3 :=
  ⟨(withKeys [3, 9] (withRegs [(5, 3)])).withFetchWord 16 0xE59E, _, rfl, by decide, by decide⟩
/-- ScreenChangesByClearAndDraw: a cycle that changes a cell and raises CH, and one with CH already true. -/
theorem witness_ScreenChangesByClearAndDraw :
    (∃ s t : State, step s = .next t ∧ t.pixel 0 0 ≠ s.pixel 0 0 ∧ t.ch ≠ s.ch ∧ s.Fetches (.drw 0 0 1)) ∧
    (∃ s t : State, step s = .next t ∧ s.ch = true ∧ s.Fetches .cls) :=
  ⟨⟨State.reset.withFetchWord 16 0xD001, _, rfl, by decide, by decide, fetches_intro (by decide) (by decide)⟩,
   ⟨(State.reset.show State.reset.fb).withFetchWord 16 0x00E0, _, rfl, by decide, fetches_intro (by decide) (by decide)⟩⟩
/-- UnreadStateIsUnobserved: two different states that look alike, and both kinds of cycle from them. -/
theorem witness_UnreadStateIsUnobserved :
    (State.reset.LooksLike (withSlot 15 0xABC (State.reset.setSt 7)) ∧ State.reset ≠ withSlot 15 0xABC (State.reset.setSt 7)) ∧
    step State.reset = .fault (.illegalInstruction 0) ∧
    (lastFetch.LooksLike (lastFetch.setSt 7) ∧ ∃ s', step lastFetch = .next s') :=
  ⟨⟨⟨rfl, rfl, rfl, rfl, fun k hk => absurd hk (Nat.not_lt_zero _), rfl, rfl, rfl, rfl, rfl, rfl⟩, by decide⟩, rfl,
   ⟨rfl, rfl, rfl, rfl, fun _ _ => rfl, rfl, rfl, rfl, rfl, rfl, rfl⟩, _, rfl⟩
/-- DecodeOfEncode and EncodeOfDecode: operands at the ends of their ranges. -/
theorem witness_encoding :
    (Instr.drw 15 15 15).wellFormed = true ∧ (Instr.jp 0xFFF).wellFormed = true ∧ (Instr.rnd 15 0xFF).wellFormed = true ∧
    decodeWord 0xDFFF = .ok (.drw 15 15 15) ∧ decodeWord 0x1FFF = .ok (.jp 0xFFF) := by decide
/-- DecodeIsTheOpcodeMap: a word that decodes and matches its row. -/
theorem witness_DecodeIsTheOpcodeMap :
    decodeWord 0x8FFE = .ok (.shl 15 15) ∧ (0x8FFE : Word) &&& (Instr.shl 0 0).opcodeRow.2 = (Instr.shl 0 0).opcodeRow.1 := by decide
/-- UnmatchedWordsAreIllegal: the reset state fetches a word that matches no row. -/
theorem witness_UnmatchedWordsAreIllegal :
    State.reset.pc.toNat + 1 ≤ 4095 ∧ ∀ i : Instr, State.reset.fetchWord &&& i.opcodeRow.2 ≠ i.opcodeRow.1 := by
  refine ⟨by decide, fun i => ?_⟩
  have e : State.reset.fetchWord = 0 := by decide
  rw [e]
  cases i <;> (simp only [Instr.opcodeRow]; decide)
/-- HostMovesKeepInvariant: a state with the invariant at its extremes (T-FLOW-24, T-FLOW-25). -/
theorem witness_HostMovesKeepInvariant : ∃ s : State, s.Inv ∧ s.pc = 0x10FE ∧ s.sp = 1 ∧ s.slot 0 = 0xFFE :=
  ⟨withSp 1 (withSlot 0 0xFFE (State.reset.setPc 0x10FE)),
   ⟨rfl, by decide, fun k hk => by revert k; decide, by decide⟩, rfl, rfl, rfl⟩
/-- StepKeepsInvariant: a state with the invariant whose step goes on, at the top of memory. -/
theorem witness_StepKeepsInvariant : lastFetch.Inv ∧ ∃ t, step lastFetch = .next t :=
  ⟨⟨by decide, by decide, fun k hk => absurd hk (Nat.not_lt_zero _), by decide⟩, _, rfl⟩
/-- CallThenReturn: the deepest Call that fits. -/
theorem witness_CallThenReturn : (withSp 14).sp.val < 15 := by decide
/-- DrawTwiceRestores: coordinates in registers other than VF, the last sprite that fits and no rows. -/
theorem witness_DrawTwiceRestores :
    (14 : Reg) ≠ VF ∧ (0 : Reg) ≠ VF ∧ (State.reset.setI 0xFF1).i.toNat + (15 : Fin 16).val - 1 ≤ 4095 ∧ (0 : Fin 16).val = 0 := by
  decide

/-- Program P5 at its fourth cycle: `F155` at 0x206 stores `62 77` at 0x208, where the next cycle fetches. -/
def selfModifying : State :=
  ((withRegs [(0, 0x62), (1, 0x77)]).setI 0x208 |>.setPc 0x206).withFetchWord 16 0xF155

/-- StoredBytesAreFetched: program P5. -/
theorem witness_StoredBytesAreFetched :
    ∃ t, step selfModifying = .next t ∧ selfModifying.Fetches (.stBlock 1) ∧ (0 : Reg).val + 1 ≤ (1 : Reg).val ∧
      t.pc.toNat = selfModifying.i.toNat + (0 : Reg).val :=
  ⟨_, rfl, fetches_intro (by decide) (by decide), by decide, by decide⟩
/-- ResetValues and InitializeGivesReset: addresses at the ends of the ranges. -/
theorem witness_reset_addresses : 0x4F < 0x50 ∧ 0x50 ≤ 0x50 ∧ 0xFFF ≤ 0xFFF ∧ 0x50 ≤ 0xFFF := by decide
/-- LoadProgramCopies: the largest image, the first too large, and the empty one (T-HOST-2 to T-HOST-4). -/
theorem witness_LoadProgramCopies :
    (List.replicate 3584 (0x12 : Byte)).length ≤ 3584 ∧ (List.replicate 3585 (0x12 : Byte)).length > 3584 ∧
    ([] : List Byte).length ≤ 3584 ∧ 0 < ([0x12] : List Byte).length :=
  ⟨by rw [List.length_replicate], by rw [List.length_replicate]; decide, by decide, by decide⟩
/-- InjectKeySetsOneFlag: a flag already set, and another key (T-HOST-7). -/
theorem witness_InjectKeySetsOneFlag : (withKeys [15] State.reset).keyDown 15 = true ∧ (3 : Fin 16) ≠ 15 := by decide
/-- ChangedFlagMoves: a move from CH false to CH true. -/
theorem witness_ChangedFlagMoves :
    lastFetch.ch = false ∧ (hostStep (.runCycle true 0) lastFetch).1.ch = true := by decide
/-- JumpToSelfStays: `1200` at 0x200 (T-FLOW-2). -/
theorem witness_JumpToSelfStays :
    (State.reset.withFetchWord 16 0x1200).pc.toNat = (0x200 : Addr12).toNat ∧
    (State.reset.withFetchWord 16 0x1200).Fetches (.jp 0x200) :=
  ⟨by decide, fetches_intro (by decide) (by decide)⟩

end Sys2Proof.Tests
end

section
/-! PROOFS. What an instruction does, part by part: its single check, and each field of the state it leaves. `exec_eq` ties
the table to `exec`; every proof about all instructions goes through it. -/

namespace Sys2Proof.Machine

/-- The single check an instruction makes (R122). -/
def State.instrCheck (s : State) : Instr → Option Fault
  | .ret => s.underflowCheck
  | .call _ => s.overflowCheck
  | .drw _ _ n => boundsCheck s.i.toNat n.val
  | .skp x | .sknp x => keyCheck (s.reg x)
  | .ldF x => fontCheck (s.reg x)
  | .ldB _ => boundsCheck s.i.toNat 3
  | .stBlock x | .ldBlock x => boundsCheck s.i.toNat (x.val + 1)
  | _ => none

/-- The general registers after an instruction that completes (R10, R11). -/
def State.regsAfter (s : State) : Instr → Vector Byte 16
  | .ldImm x kk => (s.setReg x kk).v
  | .addImm x kk => (s.setReg x (addBytes (s.reg x) kk)).v
  | .ldReg x y => (s.setReg x (s.reg y)).v
  | .orReg x y => (s.setReg x (s.reg x ||| s.reg y)).v
  | .andReg x y => (s.setReg x (s.reg x &&& s.reg y)).v
  | .xorReg x y => (s.setReg x (s.reg x ^^^ s.reg y)).v
  | .addReg x y => (s.writeFlagged x (addBytes (s.reg x) (s.reg y)) (carryOut (s.reg x) (s.reg y))).v
  | .sub x y => (s.writeFlagged x (subBytes (s.reg x) (s.reg y)) (borrowOut (s.reg x) (s.reg y))).v
  | .shr x y => (s.writeFlagged x (halfByte (s.reg y)) (lowBit (s.reg y))).v
  | .subn x y => (s.writeFlagged x (subBytes (s.reg y) (s.reg x)) (borrowOut (s.reg y) (s.reg x))).v
  | .shl x y => (s.writeFlagged x (doubleByte (s.reg y)) (highBit (s.reg y))).v
  | .rnd x kk => (s.setReg x (s.rndInput &&& kk)).v
  | .drw x y n => (s.setReg VF (flagByte (s.drawn (s.reg x) (s.reg y) n.val).hit)).v
  | .ldVxDt x => (s.setReg x s.dt).v
  | .ldVxK x => match s.lowestKey with
    | none => s.v
    | some k => (s.setReg x (BitVec.ofNat 8 k.val)).v
  | .ldBlock x => s.loadedRegs x
  | _ => s.v

/-- `I` after an instruction that completes (R12). -/
def State.indexAfter (s : State) : Instr → Word
  | .ldI nnn => addrOperand nnn
  | .addI x => s.i + byteOperand (s.reg x)
  | .ldF x => glyphAddr (s.reg x)
  | _ => s.i

/-- `SP` after an instruction that completes (R14). -/
def State.spAfter (s : State) : Instr → Fin 16
  | .call _ => s.sp + 1
  | .ret => s.sp - 1
  | _ => s.sp

/-- The stack slots after an instruction that completes (R14). -/
def State.stackAfter (s : State) : Instr → Vector Word 16
  | .call _ => s.stack.set s.sp s.pc
  | _ => s.stack

/-- `DT` after an instruction that completes, before the timer step (R112). -/
def State.dtAfter (s : State) : Instr → Byte
  | .ldDtVx x => s.reg x
  | _ => s.dt

/-- `ST` after an instruction that completes, before the timer step (R113). -/
def State.stAfter (s : State) : Instr → Byte
  | .ldStVx x => s.reg x
  | _ => s.st

/-- The key flags after an instruction that completes (R16). -/
def State.keysAfter (s : State) : Instr → Vector Bool 16
  | .skp x | .sknp x => (s.setKey (keyIndex (s.reg x)) false).key
  | .ldVxK _ => match s.lowestKey with
    | none => s.key
    | some _ => s.clearKeys.key
  | _ => s.key

/-- The framebuffer after an instruction that completes (R17). -/
def State.screenAfter (s : State) : Instr → Framebuffer
  | .cls => Framebuffer.blank
  | .drw x y n => (s.drawn (s.reg x) (s.reg y) n.val).fb
  | _ => s.fb

/-- `CH` after an instruction that completes (R18). -/
def State.changedAfter (s : State) : Instr → Bool
  | .cls | .drw _ _ _ => true
  | _ => s.ch

/-- Memory after an instruction that completes (R33). -/
def State.memAfter (s : State) : Instr → Memory
  | .ldB x => s.mem.writeBytes s.i.toNat (bcdDigits (s.reg x))
  | .stBlock x => s.mem.writeBytes s.i.toNat (s.blockBytes x)
  | _ => s.mem

/-- The state an instruction leaves when its check passes; PC is the table of R25. -/
@[simps] def State.after (s : State) (i : Instr) : State where
  v := s.regsAfter i
  i := s.indexAfter i
  pc := pcAfter s i
  sp := s.spAfter i
  stack := s.stackAfter i
  dt := s.dtAfter i
  st := s.stAfter i
  key := s.keysAfter i
  fb := s.screenAfter i
  ch := s.changedAfter i
  mem := s.memAfter i
  inputs := s.inputs
  cycles := s.cycles

/-- A Wait for key leaves `after`, with and without a key (R111). -/
theorem execLdVxK_eq (x : Reg) (s : State) : execLdVxK x s = .next (s.after (.ldVxK x)) := by
  have hpc : pcAfter s (.ldVxK x) = if s.lowestKey = none then s.pc else s.pc + 2 := by
    simp only [pcAfter, State.lowestKey_eq_none]
  cases hk : s.lowestKey with
  | none => simp only [execLdVxK, State.after, State.regsAfter, State.keysAfter, hpc, hk]; rfl
  | some k => simp only [execLdVxK, State.after, State.regsAfter, State.keysAfter, hpc, hk]; rfl

/-- A skip whose condition is a Boolean is the skip of the table of R25, whose condition is a proposition. -/
theorem State.skipIf_eq (s : State) (b : Bool) (c : Prop) [Decidable c] (h : b = true ↔ c) :
    s.skipIf b = s.setPc (if c then s.pc + 4 else s.pc + 2) := by
  simp only [State.skipIf, h]

/-- Every instruction makes its check and then leaves `after`. -/
theorem exec_eq (i : Instr) (s : State) : exec i s = checked (s.instrCheck i) (.next (s.after i)) := by
  cases i with
  | seImm x kk => exact congrArg _ (s.skipIf_eq _ (s.reg x = kk) beq_iff_eq)
  | sneImm x kk => exact congrArg _ (s.skipIf_eq _ (s.reg x ≠ kk) bne_iff_ne)
  | seReg x y => exact congrArg _ (s.skipIf_eq _ (s.reg x = s.reg y) beq_iff_eq)
  | sneReg x y => exact congrArg _ (s.skipIf_eq _ (s.reg x ≠ s.reg y) bne_iff_ne)
  | sknp x =>
    exact congrArg (fun t => checked (keyCheck (s.reg x)) (.next t))
      ((s.setKey (keyIndex (s.reg x)) false).skipIf_eq _ (s.keyDown (keyIndex (s.reg x)) = false)
        (Bool.not_eq_true' _).to_iff)
  | ldVxK x => exact execLdVxK_eq x s
  | _ => rfl

end Sys2Proof.Machine
end

section
/-! PROOFS. A cycle in terms of the instruction it fetches: what a successful one leaves, and what closing it keeps. -/

namespace Sys2Proof.Machine

/-- An instruction completes exactly when its check passes, and leaves `after`. -/
theorem exec_eq_next {i : Instr} {s t : State} : exec i s = .next t ↔ s.instrCheck i = none ∧ s.after i = t := by
  rw [exec_eq, checked_eq_next]
  simp

/-- An instruction faults exactly when its check raises. -/
theorem exec_eq_fault {i : Instr} {s : State} {f : Fault} : exec i s = .fault f ↔ s.instrCheck i = some f := by
  rw [exec_eq, checked_eq_fault]
  simp

/-- What a cycle fetches: both bytes in memory, and the word at PC decoded (R24, R36). -/
theorem State.fetches_iff {s : State} {i : Instr} :
    s.Fetches i ↔ s.fetchCheck = none ∧ decodeWord s.fetchWord = .ok i := by
  rw [State.fetchCheck_eq_none]
  exact and_congr_left fun _ => by omega

/-- A cycle fetches one instruction. -/
theorem State.Fetches.unique {s : State} {i j : Instr} (hi : s.Fetches i) (hj : s.Fetches j) : i = j :=
  Except.ok.inj (hi.2.symm.trans hj.2)

/-- A cycle that fetches an instruction runs it and ends (R24). -/
theorem step_of_fetches {s : State} {i : Instr} (h : s.Fetches i) : step s = endCycle (exec i s) := by
  obtain ⟨hf, hd⟩ := State.fetches_iff.1 h
  simp only [step, hf, hd]

/-- A successful cycle fetches an instruction whose check passes, and closes the cycle on what it leaves. -/
theorem step_eq_next_after {s t : State} (h : step s = .next t) :
    ∃ i, s.Fetches i ∧ s.instrCheck i = none ∧ t = (s.after i).closeCycle := by
  obtain ⟨hf, i, u, hd, hx, rfl⟩ := step_eq_next h
  obtain ⟨hc, rfl⟩ := exec_eq_next.1 hx
  exact ⟨i, State.fetches_iff.2 ⟨hf, hd⟩, hc, rfl⟩

/-- The same where the fetched instruction is known. -/
theorem step_eq_next_of_fetches {s t : State} {i : Instr} (h : step s = .next t) (hi : s.Fetches i) :
    s.instrCheck i = none ∧ t = (s.after i).closeCycle := by
  obtain ⟨j, hj, hc, ht⟩ := step_eq_next_after h
  cases hj.unique hi
  exact ⟨hc, ht⟩

/-! ### Closing a cycle -/

@[simp] theorem State.closeCycle_pc (s : State) : s.closeCycle.pc = s.pc := by
  unfold State.closeCycle; split <;> rfl

@[simp] theorem State.closeCycle_sp (s : State) : s.closeCycle.sp = s.sp := by
  unfold State.closeCycle; split <;> rfl

@[simp] theorem State.closeCycle_ch (s : State) : s.closeCycle.ch = s.ch := by
  unfold State.closeCycle; split <;> rfl

@[simp] theorem State.closeCycle_mem (s : State) : s.closeCycle.mem = s.mem := by
  unfold State.closeCycle; split <;> rfl

@[simp] theorem State.slot_closeCycle (s : State) (k : Fin 16) : s.closeCycle.slot k = s.slot k := by
  unfold State.closeCycle; split <;> rfl

@[simp] theorem State.keyDown_closeCycle (s : State) (k : Fin 16) : s.closeCycle.keyDown k = s.keyDown k := by
  unfold State.closeCycle; split <;> rfl

/-- The parts that the end of a cycle writes, whatever the instruction was (R126; log 5). -/
def closingParts : List Part := [.delayTimer, .soundTimer, .given]

/-- Closing a cycle writes the timers and the model's own record, and nothing else. -/
theorem State.unchangedBut_closeCycle (s : State) : UnchangedBut [] closingParts s s.closeCycle := by
  obtain ⟨hv, hi, -, hsp, hstack, hkey, hfb, hch, hmem, -⟩ := s.closeCycle_fields
  exact unchangedBut_of_fields (fun r _ => State.reg_congr hv r) (.inr hi) (.inr hsp) (.inr hstack)
    (.inl (by decide)) (.inl (by decide)) (.inr hkey) (.inr hfb) (.inr hch) (.inr hmem) (.inl (by decide))

end Sys2Proof.Machine
end

section
/-! PROOFS. The frame of every instruction and of every cycle: a part an instruction does not list is as it was, and inside
a listed part what `LeavesRest` says. -/

namespace Sys2Proof.Machine

/-- The registers of a block transfer are V0 to Vx (R100, R101). -/
theorem mem_blockRegs {x r : Reg} : r ∈ blockRegs x ↔ r ≤ x := by
  simp only [blockRegs, List.mem_take_iff_getElem, List.getElem_finRange, List.length_finRange, Fin.ext_iff, Fin.le_def]
  constructor
  · rintro ⟨k, hk, rfl⟩
    omega
  · intro h
    exact ⟨r.val, by omega, rfl⟩

/-! ### Each part: written, or as it was -/

/-- A register that is no destination, nor VF of a flag writer, is as it was (R11). -/
theorem State.reg_after_of_not_written (s : State) (i : Instr) (r : Reg) (h : r ∉ writtenRegs i) :
    (s.after i).reg r = s.reg r := by
  have plain (x : Reg) (b : Byte) (hr : r ∉ [x] ++ []) : (s.setReg x b).reg r = s.reg r :=
    (s.unchangedBut_setReg x b).1 r hr
  have flagged (x : Reg) (b : Byte) (f : Bool) (hr : r ∉ [x] ++ [VF]) : (s.writeFlagged x b f).reg r = s.reg r :=
    (s.unchangedBut_writeFlagged x b f).2.1 r hr
  cases i with
  | ldImm x | addImm x | ldReg x | orReg x | andReg x | xorReg x | rnd x | ldVxDt x => exact plain x _ h
  | drw => exact plain VF _ h
  | addReg x | sub x | shr x | subn x | shl x => exact flagged x _ _ h
  | ldVxK x =>
    cases hk : s.lowestKey with
    | none => simp [State.reg, State.regsAfter, hk]
    | some k =>
      have hv : (s.after (.ldVxK x)).v = (s.setReg x (BitVec.ofNat 8 k.val)).v := by simp [State.regsAfter, hk]
      exact (State.reg_congr hv r).trans (plain x _ h)
  | ldBlock x =>
    have hr : ¬ r ≤ x := fun hle => h (List.mem_append_left _ (mem_blockRegs.2 hle))
    exact (s.reg_loadedRegs x r).trans (if_neg hr)
  | _ => rfl

theorem State.indexAfter_written_or_kept (s : State) (i : Instr) :
    .index ∈ writtenParts i ∨ s.indexAfter i = s.i := by
  cases i with
  | ldI | addI | ldF => exact .inl (.head _)
  | _ => exact .inr rfl

theorem State.spAfter_written_or_kept (s : State) (i : Instr) :
    .stackPointer ∈ writtenParts i ∨ s.spAfter i = s.sp := by
  cases i with
  | call | ret => exact .inl (.head _)
  | _ => exact .inr rfl

theorem State.stackAfter_written_or_kept (s : State) (i : Instr) :
    .slots ∈ writtenParts i ∨ s.stackAfter i = s.stack := by
  cases i with
  | call => exact .inl (.tail _ (.head _))
  | _ => exact .inr rfl

theorem State.dtAfter_written_or_kept (s : State) (i : Instr) :
    .delayTimer ∈ writtenParts i ∨ s.dtAfter i = s.dt := by
  cases i with
  | ldDtVx => exact .inl (.head _)
  | _ => exact .inr rfl

theorem State.stAfter_written_or_kept (s : State) (i : Instr) :
    .soundTimer ∈ writtenParts i ∨ s.stAfter i = s.st := by
  cases i with
  | ldStVx => exact .inl (.head _)
  | _ => exact .inr rfl

theorem State.keysAfter_written_or_kept (s : State) (i : Instr) :
    .keys ∈ writtenParts i ∨ s.keysAfter i = s.key := by
  cases i with
  | skp | sknp | ldVxK => exact .inl (.head _)
  | _ => exact .inr rfl

theorem State.screenAfter_written_or_kept (s : State) (i : Instr) :
    .screen ∈ writtenParts i ∨ s.screenAfter i = s.fb := by
  cases i with
  | cls | drw => exact .inl (.head _)
  | _ => exact .inr rfl

theorem State.changedAfter_written_or_kept (s : State) (i : Instr) :
    .changed ∈ writtenParts i ∨ s.changedAfter i = s.ch := by
  cases i with
  | cls | drw => exact .inl (.tail _ (.head _))
  | _ => exact .inr rfl

theorem State.memAfter_written_or_kept (s : State) (i : Instr) :
    .memory ∈ writtenParts i ∨ s.memAfter i = s.mem := by
  cases i with
  | ldB | stBlock => exact .inl (.head _)
  | _ => exact .inr rfl

/-- The frame of every instruction, part by part. -/
theorem State.unchangedBut_after (s : State) (i : Instr) :
    UnchangedBut (writtenRegs i) (writtenParts i) s (s.after i) :=
  unchangedBut_of_fields (s.reg_after_of_not_written i) (s.indexAfter_written_or_kept i) (s.spAfter_written_or_kept i)
    (s.stackAfter_written_or_kept i) (s.dtAfter_written_or_kept i) (s.stAfter_written_or_kept i)
    (s.keysAfter_written_or_kept i) (s.screenAfter_written_or_kept i) (s.changedAfter_written_or_kept i)
    (s.memAfter_written_or_kept i) (.inr ⟨rfl, rfl⟩)

/-! ### Inside a written part -/

/-- A block of stores leaves every byte outside it as it was. -/
theorem State.sameBytesOutside_storeBytes (s : State) (a : Nat) (bs : List Byte) :
    SameBytesOutside a bs.length s (s.storeBytes a bs) := fun b hb => by
  rw [State.readByte_storeBytes, if_neg (by omega)]

/-- A Call writes the slot at SP and leaves every other as it was (R72). -/
theorem State.slot_after_call (s : State) (nnn : Addr12) (k : Fin 16) :
    (s.after (.call nnn)).slot k = if s.sp = k then s.pc else s.slot k :=
  s.slot_push s.pc k

/-- A Call puts its own address in the slot at SP (R72). -/
theorem State.slot_after_call_self (s : State) (nnn : Addr12) : (s.after (.call nnn)).slot s.sp = s.pc :=
  (s.slot_after_call nnn s.sp).trans (if_pos rfl)

/-- A cell that the sprite does not touch is as it was (R105). -/
theorem State.pixel_drawn_untouched (s : State) (vx vy : Byte) (n : Nat) (px : Fin 64) (py : Fin 32)
    (h : ¬ s.Touches vx vy n px py) : (s.drawn vx vy n).fb.pixel px py = s.pixel px py := by
  refine Canvas.drawRows_untouched vx vy _ 0 _ px py fun row hrow col hcol hbit ⟨hx, hy⟩ => h ?_
  rw [Memory.length_readBytes] at hrow
  rw [Memory.getD_readBytes _ _ hrow] at hbit
  rw [Nat.zero_add] at hy
  exact ⟨row, hrow, col, hcol, hbit, targetX_eq_iff.1 hx, targetY_eq_iff.1 hy⟩

/-- A Wait for key that finds no key writes nothing (R111). -/
theorem State.unchangedBut_after_wait (s : State) (x : Reg) (h : ∀ k, s.keyDown k = false) :
    UnchangedBut [] [] s (s.after (.ldVxK x)) := by
  have hk : s.lowestKey = none := State.lowestKey_eq_none.2 h
  have hw : exec (.ldVxK x) s = .next (s.setPc s.pc) := by simp only [exec, execLdVxK, hk]
  rw [(exec_eq_next.1 hw).2]
  exact s.unchangedBut_setPc s.pc

/-- What an instruction keeps inside the parts it may write. -/
theorem State.leavesRest_after (s : State) (i : Instr) : LeavesRest s (s.after i) i := by
  cases i with
  | ldB x => exact s.sameBytesOutside_storeBytes s.i.toNat (bcdDigits (s.reg x))
  | stBlock x =>
    have h := s.sameBytesOutside_storeBytes s.i.toNat (s.blockBytes x)
    rw [State.length_blockBytes] at h
    exact h
  | call nnn => exact fun k hk => (s.slot_after_call nnn k).trans (if_neg (Ne.symm hk))
  | skp x | sknp x => exact fun k hk => (s.keyDown_setKey _ k false).trans (if_neg (Ne.symm hk))
  | drw x y n => exact s.pixel_drawn_untouched (s.reg x) (s.reg y) n.val
  | ldVxK x => exact s.unchangedBut_after_wait x
  | _ => trivial

/-! ### The flag -/

/-- VF after a flag writer is 0 or 1 (R11). -/
theorem State.flag_after (s : State) {i : Instr} (h : writesFlag i = true) :
    ∃ b, (s.after i).reg VF = flagByte b := by
  have flagged (x : Reg) (b : Byte) (f : Bool) : (s.writeFlagged x b f).reg VF = flagByte f :=
    (s.reg_writeFlagged x b f VF).trans (if_pos rfl)
  cases i with
  | addReg x | sub x | shr x | subn x | shl x => exact ⟨_, flagged x _ _⟩
  | drw => exact ⟨_, s.reg_setReg_self VF _⟩
  | _ => cases h

/-- A flag byte is 0 or 1. -/
theorem flagByte_eq_zero_or_one (b : Bool) : flagByte b = 0 ∨ flagByte b = 1 := by
  cases b
  · exact .inl rfl
  · exact .inr rfl

/-! ### The frame of a cycle -/

theorem Part.same_trans {p : Part} {s t u : State} (h : p.same s t) (h' : p.same t u) : p.same s u := by
  cases p with
  | slots | keys | memory => exact fun k => (h' k).trans (h k)
  | screen => exact fun x y => (h' x y).trans (h x y)
  | given => exact ⟨h'.1.trans h.1, h'.2.trans h.2⟩
  | _ => exact h'.trans h

/-- A part that a successful cycle changed is one that the fetched instruction writes, or one that closing the cycle
writes. -/
theorem step_changes_written_part {s t : State} (h : step s = .next t) {p : Part} (hp : ¬ p.same s t)
    (hc : p ∉ closingParts) : ∃ i, s.Fetches i ∧ p ∈ writtenParts i := by
  obtain ⟨i, hi, -, rfl⟩ := step_eq_next_after h
  refine ⟨i, hi, ?_⟩
  by_contra hn
  exact hp (Part.same_trans ((s.unchangedBut_after i).2 p hn) ((s.after i).unchangedBut_closeCycle.2 p hc))

theorem index_mem_writtenParts {i : Instr} :
    .index ∈ writtenParts i ↔ (∃ nnn, i = .ldI nnn) ∨ (∃ x, i = .addI x) ∨ ∃ x, i = .ldF x := by
  cases i <;> simp [writtenParts]

theorem stackPointer_mem_writtenParts {i : Instr} :
    .stackPointer ∈ writtenParts i ↔ (∃ nnn, i = .call nnn) ∨ i = .ret := by
  cases i <;> simp [writtenParts]

theorem slots_mem_writtenParts {i : Instr} : .slots ∈ writtenParts i ↔ ∃ nnn, i = .call nnn := by
  cases i <;> simp [writtenParts]

theorem keys_mem_writtenParts {i : Instr} :
    .keys ∈ writtenParts i ↔ ∃ x, i = .skp x ∨ i = .sknp x ∨ i = .ldVxK x := by
  cases i <;> simp [writtenParts]

theorem screen_mem_writtenParts {i : Instr} :
    .screen ∈ writtenParts i ↔ i = .cls ∨ ∃ x y n, i = .drw x y n := by
  cases i <;> simp [writtenParts]

theorem changed_mem_writtenParts {i : Instr} :
    .changed ∈ writtenParts i ↔ i = .cls ∨ ∃ x y n, i = .drw x y n := by
  cases i <;> simp [writtenParts]

end Sys2Proof.Machine
end

section
/-! PROOFS. What an instruction does to SP and the slots (R14). -/

namespace Sys2Proof.Machine

/-- After a Call that passes its check, SP is one more (R72). -/
theorem State.val_spAfter_call {s : State} (nnn : Addr12) (h : s.sp ≠ 15) :
    (s.spAfter (.call nnn)).val = s.sp.val + 1 :=
  Fin.val_add_one_of_lt (Fin.lt_last_iff_ne_last.2 h)

/-- After a Return that passes its check, SP is one less (R70). -/
theorem State.val_spAfter_ret {s : State} (h : s.sp ≠ 0) : (s.spAfter .ret).val + 1 = s.sp.val := by
  have hv : (s.spAfter .ret).val = s.sp.val - 1 := Fin.val_sub_one_of_ne_zero h
  have := Fin.val_ne_zero_iff.2 h
  omega

/-- The slots below SP after an instruction were below SP before it, but for the one a Call has just written. -/
theorem State.slot_after_pending {s : State} {i : Instr} (hc : s.instrCheck i = none) {k : Fin 16}
    (hk : k < s.spAfter i) : k < s.sp ∨ (k = s.sp ∧ ∃ nnn, i = .call nnn) := by
  cases i with
  | call nnn =>
    have := s.val_spAfter_call nnn (State.overflowCheck_eq_none.1 hc)
    rw [Fin.lt_def] at hk ⊢
    by_cases h : k = s.sp
    · exact .inr ⟨h, nnn, rfl⟩
    · have := Fin.val_ne_iff.2 h
      exact .inl (by omega)
  | ret =>
    have := State.val_spAfter_ret (State.underflowCheck_eq_none.1 hc)
    rw [Fin.lt_def] at hk ⊢
    exact .inl (by omega)
  | _ => exact .inl hk

/-- A slot that changed is the one at SP, and a Call put its own address there. -/
theorem State.slot_after_ne {s : State} {i : Instr} {k : Fin 16} (h : (s.after i).slot k ≠ s.slot k) :
    k = s.sp ∧ (s.after i).slot k = s.pc ∧ ∃ nnn, i = .call nnn := by
  by_cases hw : .slots ∈ writtenParts i
  · obtain ⟨nnn, rfl⟩ := slots_mem_writtenParts.1 hw
    by_cases hk : s.sp = k
    · subst hk
      exact ⟨rfl, s.slot_after_call_self nnn, nnn, rfl⟩
    · exact absurd ((s.slot_after_call nnn k).trans (if_neg hk)) h
  · exact absurd ((s.unchangedBut_after i).2 .slots hw k) h

/-- A slot below SP is as it was. -/
theorem State.slot_after_of_lt {s : State} {k : Fin 16} (h : k < s.sp) (i : Instr) :
    (s.after i).slot k = s.slot k := by
  by_contra hne
  exact (ne_of_lt h) (State.slot_after_ne hne).1

/-- Slot 15 is never written: a Call at SP = 15 faults (R14, R72). -/
theorem State.slot_fifteen_after {s : State} {i : Instr} (hc : s.instrCheck i = none) :
    (s.after i).slot 15 = s.slot 15 := by
  by_contra hne
  obtain ⟨hsp, -, nnn, rfl⟩ := State.slot_after_ne hne
  exact State.overflowCheck_eq_none.1 hc hsp.symm

end Sys2Proof.Machine
end

section
/-! PROOFS. No instruction observes ST, CH or the stack slots at or above SP: what a cycle does from two states that look
alike is alike. -/

namespace Sys2Proof.Machine

/-- The state with other stack slots, another ST and another CH. -/
def State.withUnread (s : State) (stack : Vector Word 16) (st : Byte) (ch : Bool) : State :=
  { s with stack := stack, st := st, ch := ch }

/-- States that look alike differ in the slots from SP on, in ST and in CH only. -/
theorem State.looksLike_iff {s t : State} :
    s.LooksLike t ↔ ∃ stack st ch, t = s.withUnread stack st ch ∧ ∀ k, k < s.sp → t.slot k = s.slot k := by
  constructor
  · rintro ⟨hv, hi, hpc, hsp, hslots, hdt, hkey, hfb, hmem, hin, hcy⟩
    refine ⟨t.stack, t.st, t.ch, ?_, hslots⟩
    cases t
    simp only at hv hi hpc hsp hdt hkey hfb hmem hin hcy
    subst hv hi hpc hsp hdt hkey hfb hmem hin hcy
    rfl
  · rintro ⟨stack, st, ch, rfl, hslots⟩
    exact ⟨rfl, rfl, rfl, rfl, hslots, rfl, rfl, rfl, rfl, rfl, rfl⟩

/-- Two outcomes are alike: the same fault, or next states that look alike. -/
inductive OutcomesAlike : Host.Outcome State Fault Refusal → Host.Outcome State Fault Refusal → Prop
  | next {s t : State} (h : s.LooksLike t) : OutcomesAlike (.next s) (.next t)
  | fault (f : Fault) : OutcomesAlike (.fault f) (.fault f)

/-- Instructions lead states that look alike to states that look alike: only a Return reads a slot, one below SP, and only
a Call makes a slot pending, after writing it. -/
theorem State.LooksLike.after {s t : State} (h : s.LooksLike t) {i : Instr} (hc : s.instrCheck i = none) :
    (s.after i).LooksLike (t.after i) := by
  obtain ⟨stack, st, ch, rfl, hslots⟩ := State.looksLike_iff.1 h
  refine ⟨rfl, rfl, ?pc, rfl, ?slots, rfl, rfl, rfl, rfl, rfl, rfl⟩
  case pc =>
    cases i with
    | ret =>
      have hsp : s.sp - 1 < s.sp :=
        Fin.sub_one_lt_iff.2 (Fin.pos_iff_ne_zero.2 (State.underflowCheck_eq_none.1 hc))
      exact congrArg (· + 2) (hslots _ hsp)
    | _ => rfl
  case slots =>
    intro k hk
    obtain hlt | ⟨rfl, nnn, rfl⟩ := State.slot_after_pending hc hk
    · exact (State.slot_after_of_lt (s := s.withUnread stack st ch) hlt i).trans
        ((hslots k hlt).trans (State.slot_after_of_lt hlt i).symm)
    · exact ((s.withUnread stack st ch).slot_after_call_self nnn).trans (s.slot_after_call_self nnn).symm

/-- An instruction does alike from states that look alike. -/
theorem State.LooksLike.exec {s t : State} (h : s.LooksLike t) (i : Instr) :
    OutcomesAlike (exec i s) (exec i t) := by
  have hcheck : t.instrCheck i = s.instrCheck i := by
    obtain ⟨stack, st, ch, rfl, -⟩ := State.looksLike_iff.1 h
    cases i <;> rfl
  rw [exec_eq, exec_eq, hcheck]
  cases hc : s.instrCheck i with
  | some f => exact .fault f
  | none => exact .next (h.after hc)

/-- The end of a cycle: DT and the inputs are alike, so the timer step keeps them so. -/
theorem State.LooksLike.closeCycle {s t : State} (h : s.LooksLike t) : s.closeCycle.LooksLike t.closeCycle := by
  obtain ⟨stack, st, ch, rfl, hslots⟩ := State.looksLike_iff.1 h
  have htick : (s.withUnread stack st ch).tickInput = s.tickInput := rfl
  unfold State.closeCycle
  rw [htick]
  cases s.tickInput <;> exact ⟨rfl, rfl, rfl, rfl, hslots, rfl, rfl, rfl, rfl, rfl, rfl⟩

/-- Ending a cycle keeps outcomes alike. -/
theorem OutcomesAlike.endCycle {o p : Host.Outcome State Fault Refusal} (h : OutcomesAlike o p) :
    OutcomesAlike (endCycle o) (endCycle p) := by
  cases h with
  | next h => exact .next h.closeCycle
  | fault f => exact .fault f

/-- A cycle does alike from states that look alike: the fetch reads PC and memory alone. -/
theorem State.LooksLike.step {s t : State} (h : s.LooksLike t) : OutcomesAlike (step s) (step t) := by
  have ⟨hcheck, hword⟩ : t.fetchCheck = s.fetchCheck ∧ t.fetchWord = s.fetchWord := by
    obtain ⟨stack, st, ch, rfl, -⟩ := State.looksLike_iff.1 h
    exact ⟨rfl, rfl⟩
  simp only [Machine.step, hcheck, hword]
  cases s.fetchCheck with
  | some f => exact .fault f
  | none =>
    cases decodeWord s.fetchWord with
    | error e => exact .fault _
    | ok i => exact (h.exec i).endCycle

/-- Settles O38: the two steps have outcomes that are alike. -/
theorem unreadStateIsUnobserved : Obligations.UnreadStateIsUnobserved := by
  intro s t h
  have halike := h.step
  generalize step s = o, step t = p at halike ⊢
  cases halike with
  | next h' =>
    refine ⟨fun f hf => (nomatch hf), ?_⟩
    rintro _ ⟨⟩
    exact ⟨_, rfl, h'⟩
  | fault f => exact ⟨fun g hg => hg, fun s' hs => (nomatch hs)⟩

end Sys2Proof.Machine
end

section
/-! PROOFS. The invariant: it holds at reset, and every instruction, every cycle and every move of the host keeps it. -/

namespace Sys2Proof.Machine

/-- The invariant speaks of memory, PC, SP and the slots alone. -/
theorem State.Inv.of_fields {s t : State} (h : s.Inv) (hmem : t.mem = s.mem) (hpc : t.pc = s.pc) (hsp : t.sp = s.sp)
    (hslot : ∀ k, t.slot k = s.slot k) : t.Inv where
  memory := hmem ▸ h.memory
  pcBound := hpc ▸ h.pcBound
  pending k hk := hslot k ▸ h.pending k (hsp ▸ hk)
  lastSlot := (hslot 15).trans h.lastSlot

/-- A store that passes its check stays inside memory, so memory stays canonical (R39). -/
theorem State.memAfter_wf {s : State} {i : Instr} (hm : s.mem.wf = true) (hc : s.instrCheck i = none) :
    (s.memAfter i).wf = true := by
  cases i with
  | ldB x =>
    have hb := boundsCheck_eq_none.1 hc
    exact Memory.wf_writeBytes _ _ _ hm (hb.resolve_left (by decide))
  | stBlock x =>
    have hb := boundsCheck_eq_none.1 hc
    refine Memory.wf_writeBytes _ _ _ hm ?_
    rw [State.length_blockBytes]
    exact hb.resolve_left (Nat.succ_ne_zero _)
  | _ => exact hm

/-- PC after an instruction that was fetched is at most 0x10FE, which `JP V0` reaches: 0xFF + 0xFFF (R25 note, R78). -/
theorem State.Inv.pcAfter_le {s : State} {i : Instr} (h : s.Inv) (hpc : s.pc.toNat ≤ 4094)
    (hc : s.instrCheck i = none) : (pcAfter s i).toNat ≤ 0x10FE := by
  have next : (s.pc + 2).toNat ≤ 0x10FE := by bv_omega
  have orNext {w : Word} (hw : w.toNat ≤ 0x10FE) (c : Prop) [Decidable c] :
      (if c then w else s.pc + 2).toNat ≤ 0x10FE := by
    split
    · exact hw
    · exact next
  cases i with
  | jp nnn | call nnn =>
    have : (nnn.setWidth 16).toNat ≤ 0x10FE := by bv_omega
    exact this
  | jpV0 nnn =>
    have : ((s.reg 0).setWidth 16 + nnn.setWidth 16).toNat ≤ 0x10FE := by bv_omega
    exact this
  | ret =>
    have hsp : s.sp - 1 < s.sp :=
      Fin.sub_one_lt_iff.2 (Fin.pos_iff_ne_zero.2 (State.underflowCheck_eq_none.1 hc))
    have hslot := h.pending _ hsp
    have : (s.slot (s.sp - 1) + 2).toNat ≤ 0x10FE := by bv_omega
    exact this
  | seImm | sneImm | seReg | sneReg | skp | sknp => exact orNext (by bv_omega) _
  | ldVxK => exact orNext h.pcBound _
  | _ => exact next

/-- An instruction that was fetched and completes keeps the invariant. -/
theorem State.Inv.after {s : State} {i : Instr} (h : s.Inv) (hpc : s.pc.toNat ≤ 4094) (hc : s.instrCheck i = none) :
    (s.after i).Inv where
  memory := State.memAfter_wf h.memory hc
  pcBound := h.pcAfter_le hpc hc
  pending k hk := by
    obtain hlt | ⟨rfl, nnn, rfl⟩ := State.slot_after_pending hc hk
    · rw [State.slot_after_of_lt hlt]
      exact h.pending k hlt
    · rw [State.slot_after_call_self]
      exact hpc
  lastSlot := (State.slot_fifteen_after hc).trans h.lastSlot

/-- Closing a cycle keeps the invariant. -/
theorem State.Inv.closeCycle {s : State} (h : s.Inv) : s.closeCycle.Inv :=
  h.of_fields s.closeCycle_mem s.closeCycle_pc s.closeCycle_sp s.slot_closeCycle

/-- A successful cycle keeps the invariant. -/
theorem State.Inv.step {s t : State} (h : s.Inv) (hs : step s = .next t) : t.Inv := by
  obtain ⟨i, hi, hc, rfl⟩ := step_eq_next_after hs
  have hpc := State.fetchCheck_eq_none.1 (State.fetches_iff.1 hi).1
  exact (h.after hpc hc).closeCycle

/-- Settles O44, by the invariant kept through the fetched instruction and the end of the cycle. -/
theorem stepKeepsInvariant : Obligations.StepKeepsInvariant :=
  fun _ _ h hs => h.step hs

/-- Settles O46: memory lists nothing, PC is 0x200, no call is pending and every slot is 0. -/
theorem resetHasInvariant : Obligations.ResetHasInvariant where
  memory := rfl
  pcBound := by decide
  pending k hk := absurd hk (Fin.not_lt_zero k)
  lastSlot := by decide

/-! ### The host's moves -/

/-- Initialize with any font leaves a state with the invariant: the 80 bytes of the font lie inside memory (R140). -/
theorem State.inv_initializeWith (s : State) (font : Vector Byte 80) : (s.initializeWith font).Inv where
  memory := Memory.wf_writeBytes _ _ _ rfl (by simp)
  pcBound := resetHasInvariant.pcBound
  pending := resetHasInvariant.pending
  lastSlot := resetHasInvariant.lastSlot

/-- Load program keeps the invariant: an image that is not refused ends inside memory (R141). -/
theorem State.Inv.loadImage {s : State} (h : s.Inv) (image : List Byte) : (s.loadImage image).1.Inv := by
  unfold State.loadImage
  split
  · exact h
  · next hlen =>
    have hend : Config.progBase + image.length ≤ 4096 := by
      simp only [Config.progBase, Config.romMax] at hlen ⊢
      omega
    exact ⟨Memory.wf_writeBytes _ _ _ h.memory hend, h.pcBound, h.pending, h.lastSlot⟩

/-- Run one cycle keeps the invariant, whether the cycle succeeds or fails (R121, R131). -/
theorem State.Inv.runOneCycle {s : State} (h : s.Inv) (tick : Bool) (rnd : Byte) :
    (s.runOneCycle tick rnd).1.Inv := by
  have hgiven : (s.givenInputs tick rnd).Inv := h.of_fields rfl rfl rfl fun _ => rfl
  unfold State.runOneCycle
  cases hstep : Machine.step (s.givenInputs tick rnd) with
  | next t => exact hgiven.step hstep
  | fault f => exact h
  | refused r => exact h

/-- Every move of the host keeps the invariant. -/
theorem State.Inv.hostStep {s : State} (h : s.Inv) (m : HostMove) : (hostStep m s).1.Inv := by
  cases m with
  | initializeAll font => exact s.inv_initializeWith font
  | loadProgram image => exact h.loadImage image
  | runCycle tick rnd => exact h.runOneCycle tick rnd
  | injectKey k => exact h.of_fields rfl rfl rfl fun _ => rfl
  | readFramebuffer => exact h
  | readChanged => exact h
  | clearChanged => exact h.of_fields rfl rfl rfl fun _ => rfl

/-- Settles O45, by induction on the list of moves. -/
theorem hostMovesKeepInvariant : Obligations.HostMovesKeepInvariant := by
  intro ms
  induction ms with
  | nil => exact fun _ h => h
  | cons m ms ih => exact fun s h => ih _ (h.hostStep m)

end Sys2Proof.Machine
end

section
/-! PROOFS. The whole-machine rules, each from the frame of the fetched instruction and the one field it speaks of. -/

namespace Sys2Proof.Machine

/-! ### One instruction -/

/-- Settles O30: the frame part by part, and inside a written part what the instruction's own update keeps. -/
theorem instructionFrame : Obligations.InstructionFrame := by
  intro i s t h
  obtain ⟨-, rfl⟩ := exec_eq_next.1 h
  exact ⟨s.unchangedBut_after i, s.leavesRest_after i⟩

/-- Settles O31: VF is outside the frame of an instruction that neither names nor flags it, and the six write a flag
byte. -/
theorem onlySixWriteTheFlag : Obligations.OnlySixWriteTheFlag := by
  intro i s t h
  obtain ⟨-, rfl⟩ := exec_eq_next.1 h
  constructor
  · intro hflag hdest
    refine (s.unchangedBut_after i).1 VF ?_
    simp only [writtenRegs, hflag, Bool.false_eq_true, if_false, List.append_nil]
    exact hdest
  · intro hflag
    obtain ⟨b, hb⟩ := s.flag_after hflag
    rw [hb]
    exact flagByte_eq_zero_or_one b

/-- Settles O37: `after` takes PC from the table of R25, and `exec_eq` shows that `exec` does. -/
theorem pcUpdateTable : Obligations.PcUpdateTable := by
  intro i s t h
  obtain ⟨-, rfl⟩ := exec_eq_next.1 h
  exact s.after_pc i

/-! ### One cycle -/

/-- Settles O32: a cycle that changed `I` fetched an instruction that lists it. -/
theorem onlyThreeWriteIndex : Obligations.OnlyThreeWriteIndex := by
  intro s t h hne
  obtain ⟨i, hi, hw⟩ := step_changes_written_part h (p := .index) hne (by decide)
  obtain ⟨nnn, rfl⟩ | ⟨x, rfl⟩ | ⟨x, rfl⟩ := index_mem_writtenParts.1 hw
  · exact .inl ⟨nnn, hi⟩
  · exact .inr (.inl ⟨x, hi⟩)
  · exact .inr (.inr ⟨x, hi⟩)

/-- A cycle that changed SP fetched a Call or a Return (R14). -/
theorem step_changes_sp {s t : State} (h : step s = .next t) (hne : t.sp ≠ s.sp) :
    (∃ nnn, s.Fetches (.call nnn)) ∨ s.Fetches .ret := by
  obtain ⟨i, hi, hw⟩ := step_changes_written_part h (p := .stackPointer) hne (by decide)
  obtain ⟨nnn, rfl⟩ | rfl := stackPointer_mem_writtenParts.1 hw
  · exact .inl ⟨nnn, hi⟩
  · exact .inr hi

/-- Settles O34, from what a Call and a Return do to SP and the slots. -/
theorem stackMovesByCallAndReturn : Obligations.StackMovesByCallAndReturn := by
  intro s t h
  refine ⟨?call, ?ret, ?other, ?slots, ?last⟩
  case call =>
    rintro ⟨nnn, hi⟩
    obtain ⟨hc, rfl⟩ := step_eq_next_of_fetches h hi
    rw [State.closeCycle_sp]
    exact State.val_spAfter_call nnn (State.overflowCheck_eq_none.1 hc)
  case ret =>
    intro hi
    obtain ⟨hc, rfl⟩ := step_eq_next_of_fetches h hi
    rw [State.closeCycle_sp]
    exact State.val_spAfter_ret (State.underflowCheck_eq_none.1 hc)
  case other =>
    intro hcall hret
    by_contra hne
    obtain ⟨nnn, hi⟩ | hi := step_changes_sp h hne
    · exact hcall nnn hi
    · exact hret hi
  case slots =>
    intro k hne
    obtain ⟨i, hi, -, rfl⟩ := step_eq_next_after h
    rw [State.slot_closeCycle] at hne ⊢
    obtain ⟨hk, hslot, nnn, rfl⟩ := State.slot_after_ne hne
    exact ⟨hk, hslot, nnn, hi⟩
  case last =>
    obtain ⟨i, -, hc, rfl⟩ := step_eq_next_after h
    rw [State.slot_closeCycle]
    exact State.slot_fifteen_after hc

/-- A key flag set after an instruction was set before it: the three key instructions only write false (R16). -/
theorem State.keyDown_of_keyDown_after {s : State} {i : Instr} {k : Fin 16}
    (h : (s.after i).keyDown k = true) : s.keyDown k = true := by
  have consumed (j : Fin 16) (hj : (s.setKey j false).keyDown k = true) : s.keyDown k = true := by
    rw [State.keyDown_setKey] at hj
    split at hj
    · cases hj
    · exact hj
  by_cases hw : .keys ∈ writtenParts i
  · obtain ⟨x, rfl | rfl | rfl⟩ := keys_mem_writtenParts.1 hw
    · exact consumed _ h
    · exact consumed _ h
    · cases hk : s.lowestKey with
      | none =>
        rw [(s.unchangedBut_after_wait x (State.lowestKey_eq_none.1 hk)).2 .keys (by decide) k] at h
        exact h
      | some j =>
        have hclear : (s.after (.ldVxK x)).key = s.clearKeys.key := by simp only [State.after_key, State.keysAfter, hk]
        rw [State.keyDown_congr hclear, State.keyDown_clearKeys] at h
        cases h
  · exact ((s.unchangedBut_after i).2 .keys hw k).symm.trans h

/-- Settles O35: the flags only fall, and a cycle that changed one fetched an instruction that lists them. -/
theorem coreOnlyClearsKeys : Obligations.CoreOnlyClearsKeys := by
  intro s t k h
  constructor
  · intro hset
    obtain ⟨i, -, -, rfl⟩ := step_eq_next_after h
    rw [State.keyDown_closeCycle] at hset
    exact State.keyDown_of_keyDown_after hset
  · intro hne
    obtain ⟨i, hi, hw⟩ := step_changes_written_part h (p := .keys) (fun hsame => hne (hsame k)) (by decide)
    obtain ⟨x, rfl | rfl | rfl⟩ := keys_mem_writtenParts.1 hw
    · exact ⟨x, .inl hi⟩
    · exact ⟨x, .inr (.inl hi)⟩
    · exact ⟨x, .inr (.inr hi)⟩

/-- No instruction clears CH (R18). -/
theorem State.changedAfter_of_ch {s : State} (h : s.ch = true) (i : Instr) : s.changedAfter i = true := by
  cases i with
  | cls | drw => rfl
  | _ => exact h

/-- A cycle that changed the framebuffer or CH fetched a Clear display or a Draw sprite. -/
theorem step_changes_display {s t : State} (h : step s = .next t)
    (hne : ¬ Part.screen.same s t ∨ ¬ Part.changed.same s t) :
    s.Fetches .cls ∨ ∃ x y n, s.Fetches (.drw x y n) := by
  have ⟨i, hi, hw⟩ : ∃ i, s.Fetches i ∧ (i = .cls ∨ ∃ x y n, i = .drw x y n) := by
    obtain hne | hne := hne
    · obtain ⟨i, hi, hw⟩ := step_changes_written_part h hne (by decide)
      exact ⟨i, hi, screen_mem_writtenParts.1 hw⟩
    · obtain ⟨i, hi, hw⟩ := step_changes_written_part h hne (by decide)
      exact ⟨i, hi, changed_mem_writtenParts.1 hw⟩
  obtain rfl | ⟨x, y, n, rfl⟩ := hw
  · exact .inl hi
  · exact .inr ⟨x, y, n, hi⟩

/-- Settles O36: only the two display instructions list the framebuffer and CH, and both raise CH. -/
theorem screenChangesByClearAndDraw : Obligations.ScreenChangesByClearAndDraw := by
  intro s t h
  refine ⟨fun x y hne => step_changes_display h (.inl fun hsame => hne (hsame x y)), ?raised, ?kept,
    fun hne => step_changes_display h (.inr hne)⟩
  case raised =>
    rintro (hi | ⟨x, y, n, hi⟩)
    · obtain ⟨-, rfl⟩ := step_eq_next_of_fetches h hi
      exact State.closeCycle_ch _
    · obtain ⟨-, rfl⟩ := step_eq_next_of_fetches h hi
      exact State.closeCycle_ch _
  case kept =>
    intro hch
    obtain ⟨i, -, -, rfl⟩ := step_eq_next_after h
    rw [State.closeCycle_ch]
    exact State.changedAfter_of_ch hch i

/-- The fetched instruction, from its two bytes (R35, R50). -/
theorem State.fetches_of_decodeBytes {s : State} {i : Instr} (hpc : s.pc.toNat + 1 ≤ 4095)
    (hd : decodeBytes [s.readByte s.pc.toNat, s.readByte (s.pc.toNat + 1)] = .ok (i, [])) : s.Fetches i := by
  refine ⟨hpc, ?_⟩
  change decodeWord (wordOfBytes (s.readByte s.pc.toNat) (s.readByte (s.pc.toNat + 1))) = .ok i
  simp only [decodeBytes] at hd
  split at hd
  · next j hj =>
    cases hd
    exact hj
  · cases hd

/-- Settles O23: the step is the fetched instruction's, closed by the timer step. -/
theorem stepRunsDecodedInstruction : Obligations.StepRunsDecodedInstruction := by
  intro s i hpc hd _
  have hstep := step_of_fetches (State.fetches_of_decodeBytes hpc hd)
  constructor
  · intro f hf
    rw [hstep, hf]
    rfl
  · intro u hu
    obtain ⟨-, -, hpc, -, -, -, -, -, -, hin, hcy, hdt, hst⟩ := u.closeCycle_fields
    refine ⟨u.closeCycle, by rw [hstep, hu]; rfl, ?_, ?_, hpc, hin, hcy, u.unchangedBut_closeCycle⟩
    · rw [hdt, apply_ite BitVec.toNat, countDown_toNat]
    · rw [hst, apply_ite BitVec.toNat, countDown_toNat]

/-! ### Reset -/

/-- Settles O51: every register, slot, key and cell is of a constant vector, and memory lists nothing, so it reads as the
font and, past its 80 bytes, as 0. -/
theorem resetValues : Obligations.ResetValues := by
  have ones (k : Fin 16) : State.reset.reg k = 0 ∧ State.reset.slot k = 0 ∧ State.reset.keyDown k = false := by
    simp [State.reg, State.slot, State.keyDown, State.reset]
  have zeros (a : Nat) (ha : 0x50 ≤ a) : State.reset.readByte a = 0 :=
    List.getD_eq_default _ _ ha
  exact ⟨fun r => (ones r).1, rfl, rfl, rfl, fun k => (ones k).2.1, rfl, rfl, fun k => (ones k).2.2,
    Framebuffer.pixel_blank, rfl, fun _ _ => rfl, fun a ha _ => zeros a ha⟩

end Sys2Proof.Machine
end

section
/-! PROOFS. Memory: what the fetch reads from it (R35, R36), which bytes a cycle may change (R33, R38), and the word that
stored bytes make where the next cycle fetches (R44). -/

namespace Sys2Proof.Machine

/-! ### The fetch -/

/-- The fetched word is big-endian: the byte at PC counts 256 (R35). -/
theorem State.toNat_fetchWord (s : State) :
    s.fetchWord.toNat = (s.readByte s.pc.toNat).toNat * 256 + (s.readByte (s.pc.toNat + 1)).toNat := by
  rw [State.fetchWord, BitVec.toNat_append, ← Nat.shiftLeft_add_eq_or_of_lt (BitVec.isLt _), Nat.shiftLeft_eq]

/-- The fetch faults where the byte after PC is outside memory (R36). -/
theorem step_of_fetch_outside {s : State} (h : 4095 < s.pc.toNat + 1) : step s = .fault (.fetchOutOfRange s.pc) := by
  have hf : s.fetchCheck = some (.fetchOutOfRange s.pc) := if_pos h
  simp only [step, hf, raise]

/-- A word that decodes to no instruction is an illegal instruction, and the fault's info is the word (R57). -/
theorem step_of_illegal_word {s : State} (hf : s.fetchCheck = none) (hd : ∀ i, decodeWord s.fetchWord ≠ .ok i) :
    step s = .fault (.illegalInstruction s.fetchWord) := by
  cases hw : decodeWord s.fetchWord with
  | ok i => exact absurd hw (hd i)
  | error e => simp only [step, hf, hw, raise]

/-- Settles O25: the word of that value is the fetched one, and a step runs it or faults. -/
theorem fetchIsBoundsChecked : Obligations.FetchIsBoundsChecked := by
  intro s
  refine ⟨step_of_fetch_outside, fun hpc w hw => ?_⟩
  obtain rfl : w = s.fetchWord := BitVec.eq_of_toNat_eq (hw.trans s.toNat_fetchWord.symm)
  have hf : s.fetchCheck = none := State.fetchCheck_eq_none.2 (by omega)
  exact ⟨fun i hd => step_of_fetches (State.fetches_iff.2 ⟨hf, hd⟩), step_of_illegal_word hf⟩

/-! ### What a cycle changes in memory -/

@[simp] theorem State.closeCycle_i (s : State) : s.closeCycle.i = s.i :=
  s.unchangedBut_closeCycle.2 .index (by decide)

@[simp] theorem State.readByte_closeCycle (s : State) (a : Nat) : s.closeCycle.readByte a = s.readByte a :=
  State.readByte_congr s.closeCycle_mem a

theorem memory_mem_writtenParts {i : Instr} : .memory ∈ writtenParts i ↔ ∃ x, i = .ldB x ∨ i = .stBlock x := by
  cases i <;> simp [writtenParts]

/-- Where every byte outside a block is as it was, a changed byte lies in the block, and in memory if the block passed its
bounds check (R39). -/
theorem SameBytesOutside.bounds_of_ne {a n b : Nat} {s t : State} (h : SameBytesOutside a n s t)
    (hc : boundsCheck a n = none) (hne : t.readByte b ≠ s.readByte b) : a ≤ b ∧ b < a + n ∧ b < 4096 := by
  have hin : a ≤ b ∧ b < a + n := by
    by_contra hout
    exact hne (h b (by omega))
  have := boundsCheck_eq_none.1 hc
  omega

/-- Settles O33: a cycle that changed a byte fetched one of the two stores, which keep every byte outside their own and
`I`. -/
theorem onlyStoresChangeMemory : Obligations.OnlyStoresChangeMemory := by
  intro s t a h hne
  obtain ⟨i, hi, hw⟩ := step_changes_written_part h (p := .memory) (fun hsame => hne (hsame a)) (by decide)
  obtain ⟨hc, rfl⟩ := step_eq_next_of_fetches h hi
  rw [State.readByte_closeCycle] at hne
  obtain ⟨x, rfl | rfl⟩ := memory_mem_writtenParts.1 hw
  · obtain ⟨hlow, hhigh, hmem⟩ := SameBytesOutside.bounds_of_ne (s.leavesRest_after (.ldB x)) hc hne
    exact ⟨State.closeCycle_i _, hlow, hmem, .inl ⟨x, hi, Nat.le_of_lt_succ hhigh⟩⟩
  · obtain ⟨hlow, hhigh, hmem⟩ := SameBytesOutside.bounds_of_ne (s.leavesRest_after (.stBlock x)) hc hne
    exact ⟨State.closeCycle_i _, hlow, hmem, .inr ⟨x, hi, Nat.le_of_lt_succ hhigh⟩⟩

/-! ### Bytes stored where the next cycle fetches -/

/-- A Block store puts register `r` at `I + r` (R100). -/
theorem State.readByte_after_stBlock (s : State) {x r : Reg} (h : r ≤ x) :
    (s.after (.stBlock x)).readByte (s.i.toNat + r.val) = s.reg r := by
  have hin : s.i.toNat ≤ s.i.toNat + r.val ∧ s.i.toNat + r.val < s.i.toNat + (s.blockBytes x).length := by
    rw [State.length_blockBytes]
    exact ⟨Nat.le_add_right _ _, Nat.add_lt_add_left (Nat.lt_succ_of_le h) _⟩
  refine (s.readByte_storeBytes _ (s.blockBytes x) _).trans ?_
  rw [if_pos hin, Nat.add_sub_cancel_left, s.getD_blockBytes x r h]

/-- Settles O50: the two bytes at the new PC are those of two neighbouring registers of the block. -/
theorem storedBytesAreFetched : Obligations.StoredBytesAreFetched := by
  intro s t x k hstep hi hk hpc
  obtain ⟨-, rfl⟩ := step_eq_next_of_fetches hstep hi
  have hhigh := s.readByte_after_stBlock (x := x) (r := k) (Nat.le_of_succ_le hk)
  have hlow := s.readByte_after_stBlock (x := x) (r := ⟨k.val + 1, Nat.lt_of_le_of_lt hk x.isLt⟩) hk
  rw [State.fetchWord, hpc, State.readByte_closeCycle, State.readByte_closeCycle, hhigh, Nat.add_assoc, hlow]

end Sys2Proof.Machine
end

section
/-! PROOFS. Encoding: a word decodes to an instruction exactly when it is that instruction's word (R51, R53, R59). The way
there is from a word's fields, out of which it is put together again in each format. -/

namespace Sys2Proof

/-! ### A word out of its fields -/

/-- A word of format NNN is its class and its `nnn` (R53). -/
theorem formNnn_fields {w : Word} {c : Nat} (hc : fieldClass w = c) : formNnn c (fieldNnn w) = w := by
  have hlt := w.isLt
  rw [fieldClass_eq] at hc
  apply BitVec.eq_of_toNat_eq
  rw [formNnn_toNat (by omega), fieldNnn_toNat]
  omega

/-- A word of format XKK is its class, its `x` and its `kk` (R53). -/
theorem formXkk_fields {w : Word} {c : Nat} {kk : Byte} (hc : fieldClass w = c) (hk : (fieldKk w).toNat = kk.toNat) :
    formXkk c (fieldX w) kk = w := by
  have hlt := w.isLt
  rw [fieldClass_eq] at hc
  rw [fieldKk_toNat] at hk
  apply BitVec.eq_of_toNat_eq
  rw [formXkk_toNat (by omega), fieldX_val]
  omega

/-- A word of format XYN is its class, its `x`, its `y` and its `n` (R53). -/
theorem formXyn_fields {w : Word} {c : Nat} {n : Fin 16} (hc : fieldClass w = c) (hn : (fieldN w).val = n.val) :
    formXyn c (fieldX w) (fieldY w) n = w := by
  have hlt := w.isLt
  rw [fieldClass_eq] at hc
  rw [fieldN_val] at hn
  apply BitVec.eq_of_toNat_eq
  rw [formXyn_toNat (by omega), fieldX_val, fieldY_val]
  omega

/-! ### From an instruction to its word and back -/

/-- Decoding the word of an instruction gives it back: in its format, every field reads what was put there. -/
theorem decodeWord_encode (i : Instr) : decodeWord (encode i) = .ok i := by
  cases i with
  | cls | ret => rfl
  | jp | call | ldI | jpV0 => simp [decodeWord, encode, fieldClass_formNnn, fieldNnn_formNnn]
  | seImm | sneImm | ldImm | addImm | rnd =>
    simp [decodeWord, encode, fieldClass_formXkk, fieldX_formXkk, fieldKk_formXkk]
  | seReg | sneReg | drw =>
    simp [decodeWord, encode, fieldClass_formXyn, fieldX_formXyn, fieldY_formXyn, fieldN_formXyn]
  | ldReg | orReg | andReg | xorReg | addReg | sub | shr | subn | shl =>
    simp [decodeWord, decodeClass8, encode, fieldClass_formXyn, fieldX_formXyn, fieldY_formXyn, fieldN_formXyn]
  | skp | sknp => simp [decodeWord, decodeClassE, encode, fieldClass_formXkk, fieldX_formXkk, fieldKk_formXkk]
  | ldVxDt | ldVxK | ldDtVx | ldStVx | addI | ldF | ldB | stBlock | ldBlock =>
    simp [decodeWord, decodeClassF, encode, fieldClass_formXkk, fieldX_formXkk, fieldKk_formXkk]

/-- Settles O39, from the word to its two bytes. -/
theorem decodeOfEncode : Obligations.DecodeOfEncode := by
  intro i _
  refine ⟨decodeWord_encode i, ?_⟩
  rw [encodeBytes, decodeBytes_word, decodeWord_encode]
  rfl

/-! ### From a word to its instruction and back -/

/-- In class 0 the class and the 12 bits that select are the whole word (R55). -/
theorem encode_of_decodeClass0 {w : Word} {i : Instr} (hc : fieldClass w = 0) (h : decodeClass0 w = .ok i) :
    encode i = w := by
  have whole {nnn : Addr12} (hs : (fieldNnn w).toNat = nnn.toNat) : formNnn 0 nnn = w := by
    rw [← BitVec.eq_of_toNat_eq hs]
    exact formNnn_fields hc
  unfold decodeClass0 at h
  split at h
  · next hs => cases h; exact whole (nnn := 0x0E0) hs
  · next hs => cases h; exact whole (nnn := 0x0EE) hs
  · cases h

/-- In class 8 the selector is `n`, and the operands are the other two fields (R55, R82). -/
theorem encode_of_decodeClass8 {w : Word} {i : Instr} (hc : fieldClass w = 8) (h : decodeClass8 w = .ok i) :
    encode i = w := by
  unfold decodeClass8 at h
  split at h <;> cases h <;> exact formXyn_fields hc ‹_›

/-- In class E the selector is `kk`, and the operand is `x` (R55). -/
theorem encode_of_decodeClassE {w : Word} {i : Instr} (hc : fieldClass w = 14) (h : decodeClassE w = .ok i) :
    encode i = w := by
  unfold decodeClassE at h
  split at h <;> cases h <;> exact formXkk_fields hc ‹_›

/-- In class F the selector is `kk`, and the operand is `x` (R55). -/
theorem encode_of_decodeClassF {w : Word} {i : Instr} (hc : fieldClass w = 15) (h : decodeClassF w = .ok i) :
    encode i = w := by
  unfold decodeClassF at h
  split at h <;> cases h <;> exact formXkk_fields hc ‹_›

/-- A word that decodes is the word of what it decodes to: no bit of it is ignored (R55, R59). -/
theorem encode_of_decodeWord {w : Word} {i : Instr} (h : decodeWord w = .ok i) : encode i = w := by
  unfold decodeWord at h
  split at h
  · next hc => exact encode_of_decodeClass0 hc h
  · next hc => cases h; exact formNnn_fields hc
  · next hc => cases h; exact formNnn_fields hc
  · next hc => cases h; exact formXkk_fields hc rfl
  · next hc => cases h; exact formXkk_fields hc rfl
  · next hc =>
    split at h
    · next hn => cases h; exact formXyn_fields hc hn
    · cases h
  · next hc => cases h; exact formXkk_fields hc rfl
  · next hc => cases h; exact formXkk_fields hc rfl
  · next hc => exact encode_of_decodeClass8 hc h
  · next hc =>
    split at h
    · next hn => cases h; exact formXyn_fields hc hn
    · cases h
  · next hc => cases h; exact formNnn_fields hc
  · next hc => cases h; exact formNnn_fields hc
  · next hc => cases h; exact formXkk_fields hc rfl
  · next hc => cases h; exact formXyn_fields hc rfl
  · next hc => exact encode_of_decodeClassE hc h
  · next hc => exact encode_of_decodeClassF hc h
  · cases h

/-- Every instruction is well formed, and its word lies in its row of the opcode map (R56). -/
theorem opcodeRow_statement (i : Instr) : Laws.OpcodeRow.Statement i := by
  open Laws.OpcodeRow in
  cases i with
  | cls => exact cls
  | ret => exact ret
  | jp nnn => exact jp nnn
  | call nnn => exact call nnn
  | seImm x kk => exact seImm x kk
  | sneImm x kk => exact sneImm x kk
  | seReg x y => exact seReg x y
  | ldImm x kk => exact ldImm x kk
  | addImm x kk => exact addImm x kk
  | ldReg x y => exact ldReg x y
  | orReg x y => exact orReg x y
  | andReg x y => exact andReg x y
  | xorReg x y => exact xorReg x y
  | addReg x y => exact addReg x y
  | sub x y => exact sub x y
  | shr x y => exact shr x y
  | subn x y => exact subn x y
  | shl x y => exact shl x y
  | sneReg x y => exact sneReg x y
  | ldI nnn => exact ldI nnn
  | jpV0 nnn => exact jpV0 nnn
  | rnd x kk => exact rnd x kk
  | drw x y n => exact drw x y n
  | skp x => exact skp x
  | sknp x => exact sknp x
  | ldVxDt x => exact ldVxDt x
  | ldVxK x => exact ldVxK x
  | ldDtVx x => exact ldDtVx x
  | ldStVx x => exact ldStVx x
  | addI x => exact addI x
  | ldF x => exact ldF x
  | ldB x => exact ldB x
  | stBlock x => exact stBlock x
  | ldBlock x => exact ldBlock x

/-- Settles O40. -/
theorem encodeOfDecode : Obligations.EncodeOfDecode := by
  intro w i h
  obtain ⟨hwf, -⟩ := opcodeRow_statement i
  exact ⟨encode_of_decodeWord h, hwf⟩

/-! ### The opcode map -/

/-- A word has the field of a row that it matches, where the row's mask keeps the field (R56). -/
theorem extractLsb'_of_and {w mask row : Word} {start len : Nat} (h : w &&& mask = row)
    (hm : mask.extractLsb' start len = BitVec.allOnes len) :
    w.extractLsb' start len = row.extractLsb' start len := by
  rw [← h, BitVec.extractLsb'_and, hm, BitVec.and_allOnes]

theorem fieldClass_of_and {w mask row : Word} (h : w &&& mask = row) (hm : mask.extractLsb' 12 4 = BitVec.allOnes 4) :
    fieldClass w = fieldClass row :=
  congrArg BitVec.toNat (extractLsb'_of_and h hm)

theorem fieldN_of_and {w mask row : Word} (h : w &&& mask = row) (hm : mask.extractLsb' 0 4 = BitVec.allOnes 4) :
    fieldN w = fieldN row :=
  congrArg BitVec.toFin (extractLsb'_of_and h hm)

theorem fieldKk_of_and {w mask row : Word} (h : w &&& mask = row) (hm : mask.extractLsb' 0 8 = BitVec.allOnes 8) :
    fieldKk w = fieldKk row :=
  extractLsb'_of_and h hm

/-- A word that matches a row decodes to an instruction of that row: the fields that select are the row's (R55, R56). -/
theorem decodeWord_row_of_matchesRow {w : Word} {i : Instr} (h : w &&& i.opcodeRow.2 = i.opcodeRow.1) :
    (decodeWord w).map Instr.opcodeRow = .ok i.opcodeRow := by
  cases i <;> simp only [Instr.opcodeRow] at h ⊢
  case cls | ret =>
    obtain rfl := (BitVec.and_allOnes (x := w)).symm.trans h
    rfl
  case jp | call | seImm | sneImm | ldImm | addImm | ldI | jpV0 | rnd | drw =>
    rw [decodeWord, fieldClass_of_and h rfl]
    rfl
  case seReg | sneReg =>
    rw [decodeWord, fieldClass_of_and h rfl, fieldN_of_and h rfl]
    rfl
  case ldReg | orReg | andReg | xorReg | addReg | sub | shr | subn | shl =>
    rw [decodeWord, fieldClass_of_and h rfl, decodeClass8, fieldN_of_and h rfl]
    rfl
  case skp | sknp =>
    rw [decodeWord, fieldClass_of_and h rfl, decodeClassE, fieldKk_of_and h rfl]
    rfl
  case ldVxDt | ldVxK | ldDtVx | ldStVx | addI | ldF | ldB | stBlock | ldBlock =>
    rw [decodeWord, fieldClass_of_and h rfl, decodeClassF, fieldKk_of_and h rfl]
    rfl

/-- A word that decodes matches the row of its instruction: it is the instruction's word, which lies there (R56). -/
theorem matchesRow_of_decodeWord {w : Word} {i : Instr} (h : decodeWord w = .ok i) :
    w &&& i.opcodeRow.2 = i.opcodeRow.1 := by
  obtain ⟨-, hrow⟩ := opcodeRow_statement i
  rwa [encode_of_decodeWord h] at hrow

/-- Settles O41. -/
theorem decodeIsTheOpcodeMap : Obligations.DecodeIsTheOpcodeMap := by
  refine fun w => ⟨fun i => matchesRow_of_decodeWord, fun i h => ?_⟩
  have hrow := decodeWord_row_of_matchesRow h
  cases hd : decodeWord w with
  | ok j =>
    rw [hd] at hrow
    exact ⟨j, rfl, Except.ok.inj hrow⟩
  | error e =>
    rw [hd] at hrow
    cases hrow

/-- Settles O43: the legal words are words of instructions, and the others are decoded as they stand. -/
theorem sampleWordsDecode : Obligations.SampleWordsDecode :=
  ⟨decodeWord_encode (.jp 0x234), decodeWord_encode (.drw 1 2 15), decodeWord_encode (.addReg 10 11),
    decodeWord_encode (.ldBlock 14), decodeWord_encode (.sknp 0), rfl, rfl, rfl, rfl, rfl⟩

end Sys2Proof
end

section
/-! PROOFS. What every cycle ends in: an illegal word faults (R57), and no cycle is refused (R56, R120). -/

namespace Sys2Proof.Machine

/-- Settles O42: a word that decoded would match its instruction's row. -/
theorem unmatchedWordsAreIllegal : Obligations.UnmatchedWordsAreIllegal := by
  intro s hpc hrow
  have hf : s.fetchCheck = none := State.fetchCheck_eq_none.2 (by omega)
  exact step_of_illegal_word hf fun i hd => hrow i (matchesRow_of_decodeWord hd)

/-- No instruction is refused: it faults on its check or completes. -/
theorem exec_ne_refused (i : Instr) (s : State) (r : Refusal) : exec i s ≠ .refused r := by
  rw [exec_eq, Ne, checked_eq_refused]
  rintro ⟨-, h⟩
  cases h

/-- The end of a cycle refuses nothing of its own. -/
theorem endCycle_eq_refused {o : Host.Outcome State Fault Refusal} {r : Refusal} :
    endCycle o = .refused r ↔ o = .refused r := by
  cases o <;> simp [endCycle]

/-- Settles O29: a cycle faults in the fetch, faults in decode, or ends as its instruction does. -/
theorem noStepIsRefused : Obligations.NoStepIsRefused := by
  intro s r h
  by_cases hpc : 4095 < s.pc.toNat + 1
  · rw [step_of_fetch_outside hpc] at h
    cases h
  have hf : s.fetchCheck = none := State.fetchCheck_eq_none.2 (by omega)
  by_cases hd : ∃ i, decodeWord s.fetchWord = .ok i
  · obtain ⟨i, hi⟩ := hd
    rw [step_of_fetches (State.fetches_iff.2 ⟨hf, hi⟩)] at h
    exact exec_ne_refused i s r (endCycle_eq_refused.1 h)
  · rw [step_of_illegal_word hf (not_exists.1 hd)] at h
    cases h

end Sys2Proof.Machine
end

section
/-! PROOFS. How frames chain: one state after another, and a frame inside a larger one. -/

namespace Sys2Proof.Machine

variable {regs regs' : List Reg} {parts parts' : List Part} {s t u : State}

/-- What two changes in a row may write is what either of them may write. -/
theorem UnchangedBut.trans (h : UnchangedBut regs parts s t) (h' : UnchangedBut regs' parts' t u) :
    UnchangedBut (regs ++ regs') (parts ++ parts') s u := by
  obtain ⟨hreg, hpart⟩ := h
  obtain ⟨hreg', hpart'⟩ := h'
  constructor
  · intro r hr
    rw [List.mem_append, not_or] at hr
    exact (hreg' r hr.2).trans (hreg r hr.1)
  · intro p hp
    rw [List.mem_append, not_or] at hp
    exact Part.same_trans (hpart p hp.1) (hpart' p hp.2)

/-- A frame holds with other parts listed, where every part that is dropped from the list is the same. -/
theorem UnchangedBut.relist (h : UnchangedBut regs parts s t) (hp : ∀ p ∈ parts, p ∉ parts' → p.same s t) :
    UnchangedBut regs parts' s t := by
  refine ⟨h.1, fun p hp' => ?_⟩
  by_cases hmem : p ∈ parts
  · exact hp p hmem hp'
  · exact h.2 p hmem

end Sys2Proof.Machine
end

section
/-! PROOFS. The control transfers (R70 to R78), each from the table of R25 and the frame of the instruction. -/

namespace Sys2Proof.Machine

/-- An instruction whose check passes completes, with PC by the table of R25 and the rest by its frame. -/
theorem exec_completes {i : Instr} {s : State} (hc : s.instrCheck i = none) :
    ∃ t, exec i s = .next t ∧ t.pc = pcAfter s i ∧ UnchangedBut (writtenRegs i) (writtenParts i) s t :=
  ⟨s.after i, exec_eq_next.2 ⟨hc, rfl⟩, s.after_pc i, s.unchangedBut_after i⟩

/-- An address operand keeps its value in PC (R54, R71, R72). -/
theorem toNat_addrOperand (nnn : Addr12) : (addrOperand nnn).toNat = nnn.toNat :=
  BitVec.toNat_setWidth_of_le (by decide)

/-! ### Jumps -/

/-- Settles O4. -/
theorem jumpSetsPc : Obligations.JumpSetsPc := by
  refine fun nnn => ⟨decodeWord_encode (.jp nnn), fun s => ?_⟩
  obtain ⟨t, ht, hpc, hframe⟩ := exec_completes (i := .jp nnn) (s := s) rfl
  exact ⟨t, ht, (congrArg BitVec.toNat hpc).trans (toNat_addrOperand nnn), hframe⟩

/-- The sum of a byte and a 12-bit address fits in PC: it is at most 0x10FE (R78). -/
theorem State.toNat_offsetTarget (s : State) (nnn : Addr12) :
    (s.offsetTarget nnn).toNat = (s.reg 0).toNat + nnn.toNat := by
  unfold State.offsetTarget byteOperand addrOperand
  bv_omega

/-- Settles O7. -/
theorem jumpWithOffset : Obligations.JumpWithOffset := by
  refine fun nnn => ⟨decodeWord_encode (.jpV0 nnn), fun s => ?_⟩
  obtain ⟨t, ht, hpc, hframe⟩ := exec_completes (i := .jpV0 nnn) (s := s) rfl
  exact ⟨t, ht, (congrArg BitVec.toNat hpc).trans (s.toNat_offsetTarget nnn), hframe⟩

/-! ### Compare skips -/

/-- In classes 5 and 9 a word with `n` other than 0 is illegal (R55, R57). -/
theorem decodeWord_formXyn_ne_ok {c : Nat} (hc : c = 5 ∨ c = 9) (x y : Reg) {n : Fin 16} (hn : n ≠ 0) (i : Instr) :
    decodeWord (formXyn c x y n) ≠ .ok i := by
  have hsel : ¬ (fieldN (formXyn c x y n)).val = 0 := by
    rw [fieldN_formXyn (by omega)]
    exact Fin.val_ne_zero_iff.2 hn
  obtain rfl | rfl := hc <;> simp [decodeWord, fieldClass_formXyn, hsel]

/-- Settles O6: the four skips make no check, and the table of R25 gives their PC. -/
theorem compareSkipsAdvance : Obligations.CompareSkipsAdvance := by
  constructor
  · exact fun x kk => ⟨decodeWord_encode (.seImm x kk), decodeWord_encode (.sneImm x kk), fun s =>
      ⟨exec_completes (i := .seImm x kk) rfl, exec_completes (i := .sneImm x kk) rfl⟩⟩
  · exact fun x y => ⟨decodeWord_encode (.seReg x y), decodeWord_encode (.sneReg x y),
      fun n hn => ⟨decodeWord_formXyn_ne_ok (.inl rfl) x y hn, decodeWord_formXyn_ne_ok (.inr rfl) x y hn⟩, fun s =>
      ⟨exec_completes (i := .seReg x y) rfl, exec_completes (i := .sneReg x y) rfl⟩⟩

/-! ### Call and Return -/

/-- Settles O5. -/
theorem callPushesCallSite : Obligations.CallPushesCallSite := by
  refine fun nnn => ⟨decodeWord_encode (.call nnn), fun s => ⟨fun hsp => ?full, fun hsp => ?room⟩⟩
  case full =>
    have hfull : s.sp = 15 := Fin.ext hsp
    exact exec_eq_fault.2 (by simp [State.instrCheck, State.overflowCheck, hfull])
  case room =>
    have hne : s.sp ≠ 15 := fun h => by simp [h] at hsp
    exact ⟨s.after (.call nnn), exec_eq_next.2 ⟨State.overflowCheck_eq_none.2 hne, rfl⟩, s.slot_after_call_self nnn,
      s.leavesRest_after (.call nnn), s.val_spAfter_call nnn hne, toNat_addrOperand nnn,
      s.unchangedBut_after (.call nnn)⟩

/-- Settles O3: the slot that a Return pops is the one below SP. -/
theorem returnPopsCallSite : Obligations.ReturnPopsCallSite := by
  refine ⟨decodeWord_encode .ret, fun s => ⟨fun hsp => ?empty, fun k hsp => ?pending⟩⟩
  case empty => exact exec_eq_fault.2 (by simp [State.instrCheck, State.underflowCheck, hsp])
  case pending =>
    have hne : s.sp ≠ 0 := Fin.val_ne_zero_iff.1 (by omega)
    have hk : s.spAfter .ret = k := Fin.ext (by have := State.val_spAfter_ret hne; omega)
    obtain ⟨t, ht, hpc, hframe⟩ := exec_completes (i := .ret) (State.underflowCheck_eq_none.2 hne)
    obtain ⟨-, rfl⟩ := exec_eq_next.1 ht
    subst hk
    exact ⟨s.after .ret, ht, rfl, hpc, hframe⟩

/-- Settles O47: the Return pops the slot that the Call has pushed. -/
theorem callThenReturn : Obligations.CallThenReturn := by
  intro s nnn hsp
  obtain ⟨t, hcall, hslot, -, hspt, -, hst⟩ := ((callPushesCallSite nnn).2 s).2 hsp
  obtain ⟨u, hret, hspu, hpcu, htu⟩ := (returnPopsCallSite.2 t).2 s.sp hspt
  refine ⟨t, u, hcall, hret, hslot ▸ hpcu, hspu, (hst.trans htu).relist fun p hp hout => ?_⟩
  have hp' : p = .stackPointer := by simpa [List.mem_singleton.not.1 hout] using hp
  subst hp'
  exact hspu

end Sys2Proof.Machine
end

section
/-! PROOFS. A cycle run by the host (R131), and the jump to itself (R143). -/

namespace Sys2Proof.Machine

/-- The host's inputs are no part of what is fetched. -/
theorem State.fetches_givenInputs {s : State} {i : Instr} (tick : Bool) (rnd : Byte) :
    (s.givenInputs tick rnd).Fetches i ↔ s.Fetches i :=
  Iff.rfl

/-- No instruction's check reads the host's inputs. -/
@[simp] theorem State.instrCheck_givenInputs (s : State) (tick : Bool) (rnd : Byte) (i : Instr) :
    (s.givenInputs tick rnd).instrCheck i = s.instrCheck i := by
  cases i <;> rfl

/-- Giving a cycle its inputs writes the model's own record and nothing else (R131). -/
theorem State.unchangedBut_givenInputs (s : State) (tick : Bool) (rnd : Byte) :
    UnchangedBut [] [.given] s (s.givenInputs tick rnd) :=
  unchangedBut_of_fields (fun _ _ => rfl) (.inr rfl) (.inr rfl) (.inr rfl) (.inr rfl) (.inr rfl) (.inr rfl) (.inr rfl)
    (.inr rfl) (.inr rfl) (.inl (.head _))

/-- A cycle that fetches an instruction whose check passes succeeds, and leaves what the instruction does from the state
with the inputs given (R24, R131). -/
theorem hostStep_runCycle_of_fetches {s : State} {i : Instr} (tick : Bool) (rnd : Byte) (hi : s.Fetches i)
    (hc : s.instrCheck i = none) :
    hostStep (.runCycle tick rnd) s = (((s.givenInputs tick rnd).after i).closeCycle, .ok) := by
  have hexec : exec i (s.givenInputs tick rnd) = .next ((s.givenInputs tick rnd).after i) :=
    exec_eq_next.2 ⟨(s.instrCheck_givenInputs tick rnd i).trans hc, rfl⟩
  simp only [hostStep, State.runOneCycle, step_of_fetches ((State.fetches_givenInputs tick rnd).2 hi), hexec, endCycle,
    cycleReply]

/-- The frame of such a cycle: the instruction's own, and what giving the inputs and closing the cycle write. -/
theorem State.unchangedBut_cycle (s : State) (tick : Bool) (rnd : Byte) (i : Instr) :
    UnchangedBut (writtenRegs i) (writtenParts i ++ closingParts) s
      ((s.givenInputs tick rnd).after i).closeCycle := by
  have h := ((s.unchangedBut_givenInputs tick rnd).trans (State.unchangedBut_after _ i)).trans
    (State.unchangedBut_closeCycle _)
  rw [List.nil_append, List.append_nil] at h
  refine h.relist fun p hp hout => absurd ?_ hout
  simp only [List.mem_append, List.mem_singleton] at hp ⊢
  obtain (rfl | hp) | hp := hp
  · exact .inr (by decide)
  · exact .inl hp
  · exact .inr hp

/-- Settles O58: the jump puts PC where it was, and the rest is the frame of a cycle whose instruction writes no part. -/
theorem jumpToSelfStays : Obligations.JumpToSelfStays := by
  intro s a tick rnd hpc hi
  rw [hostStep_runCycle_of_fetches tick rnd hi rfl]
  have htarget : addrOperand a = s.pc := BitVec.eq_of_toNat_eq ((toNat_addrOperand a).trans hpc.symm)
  exact ⟨rfl, (State.closeCycle_pc _).trans htarget, State.closeCycle_mem _, s.unchangedBut_cycle tick rnd (.jp a)⟩

end Sys2Proof.Machine
end

section
/-! PROOFS. Register loads, arithmetic, logic and shifts (R80 to R92): the decoder's words of class 8, the arithmetic
results and flags as numbers, and each instruction from the register write it ends with. -/

namespace Sys2Proof.Machine

/-! ### Words of class 8 -/

/-- The word of class 8 with selector `n`, with class and selector in one number, decodes to the instruction whose word it
is (R55, R82). -/
theorem decodeWord_class8 {i : Instr} {x y : Reg} (k : Nat) (n : Fin 16) (hi : encode i = formXyn 8 x y n)
    (hk : k = 0x8000 + n.val) : decodeWord (BitVec.ofNat 16 (k + x.val * 0x100 + y.val * 0x10)) = .ok i := by
  have hw : BitVec.ofNat 16 (k + x.val * 0x100 + y.val * 0x10) = encode i := by
    rw [hi, formXyn, hk]
    congr 1
    omega
  rw [hw, decodeWord_encode]

/-! ### Results and flags as numbers -/

theorem toNat_addBytes (a b : Byte) : (addBytes a b).toNat = (a.toNat + b.toNat) % 256 :=
  BitVec.toNat_ofNat ..

theorem toNat_subBytes (a b : Byte) : ((subBytes a b).toNat : Int) = ((a.toNat : Int) - (b.toNat : Int)) % 256 := by
  rw [subBytes, BitVec.toNat_ofInt]
  exact Int.toNat_of_nonneg (Int.emod_nonneg _ (by decide))

theorem toNat_halfByte (v : Byte) : (halfByte v).toNat = v.toNat / 2 := by
  rw [halfByte, BitVec.toNat_ofNat]
  omega

theorem toNat_doubleByte (v : Byte) : (doubleByte v).toNat = v.toNat * 2 % 256 :=
  BitVec.toNat_ofNat ..

/-- The flag of a decided condition (R8). -/
theorem flagByte_decide (p : Prop) [Decidable p] : flagByte (decide p) = if p then 1 else 0 := by
  simp only [flagByte, decide_eq_true_eq]

theorem toNat_flagByte (b : Bool) : (flagByte b).toNat = b.toNat := by
  cases b <;> rfl

/-- Bit 0 is the remainder of a right shift (R89). -/
theorem toNat_flagByte_lowBit (v : Byte) : (flagByte (lowBit v)).toNat = v.toNat % 2 := by
  rw [toNat_flagByte, lowBit, BitVec.getLsbD, Nat.toNat_testBit]
  omega

/-- Bit 7 is what a left shift carries out of the byte (R91). -/
theorem toNat_flagByte_highBit (v : Byte) : (flagByte (highBit v)).toNat = v.toNat / 128 := by
  rw [toNat_flagByte, highBit, BitVec.getLsbD, Nat.toNat_testBit]
  omega

/-! ### The two ends of an ALU instruction -/

/-- Where VF is not the destination, the destination holds the result (R82). -/
theorem State.reg_writeFlagged_of_ne (s : State) {x : Reg} (b : Byte) (f : Bool) (h : x ≠ VF) :
    (s.writeFlagged x b f).reg x = b := by
  rw [State.reg_writeFlagged, if_neg h.symm, if_pos rfl]

/-- VF holds the flag, whatever the destination (R82). -/
theorem State.reg_writeFlagged_VF (s : State) (x : Reg) (b : Byte) (f : Bool) :
    (s.writeFlagged x b f).reg VF = flagByte f :=
  (s.reg_writeFlagged x b f VF).trans (if_pos rfl)

/-- An instruction that ends with one register write leaves that register and PC + 2, and the rest as it was (R80). -/
theorem exec_completes_setReg {i : Instr} {s : State} {x : Reg} {b : Byte}
    (h : exec i s = .next (s.setReg x b).advance) :
    ∃ t, exec i s = .next t ∧ t.reg x = b ∧ t.pc = s.pc + 2 ∧ UnchangedBut [x] [] s t :=
  ⟨_, h, s.reg_setReg_self x b, rfl, s.unchangedBut_setReg x b⟩

/-- An instruction that ends with a flag leaves the result, the flag and PC + 2, and the rest as it was (R82). -/
theorem exec_completes_writeFlagged {i : Instr} {s : State} {x : Reg} {b : Byte} {f : Bool}
    (h : exec i s = .next (s.writeFlagged x b f)) :
    ∃ t, exec i s = .next t ∧ (x ≠ VF → t.reg x = b) ∧ t.reg VF = flagByte f ∧ t.pc = s.pc + 2 ∧
      UnchangedBut [x, VF] [] s t :=
  ⟨_, h, s.reg_writeFlagged_of_ne b f, s.reg_writeFlagged_VF x b f, s.unchangedBut_writeFlagged x b f⟩

/-! ### Loads, arithmetic and logic without a flag -/

/-- Settles O8. -/
theorem loadAndAddImmediate : Obligations.LoadAndAddImmediate := by
  refine fun x kk => ⟨decodeWord_encode (.ldImm x kk), decodeWord_encode (.addImm x kk), fun s =>
    ⟨exec_completes_setReg rfl, ?add⟩⟩
  obtain ⟨t, ht, hreg, hrest⟩ := exec_completes_setReg (i := .addImm x kk) (s := s) rfl
  exact ⟨t, ht, hreg ▸ toNat_addBytes (s.reg x) kk, hrest⟩

/-- Settles O9: the three logic results have their bits by the library's laws of `|||`, `&&&` and `^^^`. -/
theorem copyAndLogic : Obligations.CopyAndLogic := by
  refine fun x y => ⟨decodeWord_class8 _ 0 rfl rfl, decodeWord_class8 _ 1 rfl rfl, decodeWord_class8 _ 2 rfl rfl,
    decodeWord_class8 _ 3 rfl rfl, fun s => ⟨exec_completes_setReg rfl, ?or, ?and, ?xor⟩⟩
  case or =>
    obtain ⟨t, ht, hreg, hrest⟩ := exec_completes_setReg (i := .orReg x y) (s := s) rfl
    exact ⟨t, ht, fun b _ => hreg ▸ BitVec.getLsbD_or, hrest⟩
  case and =>
    obtain ⟨t, ht, hreg, hrest⟩ := exec_completes_setReg (i := .andReg x y) (s := s) rfl
    exact ⟨t, ht, fun b _ => hreg ▸ BitVec.getLsbD_and, hrest⟩
  case xor =>
    obtain ⟨t, ht, hreg, hrest⟩ := exec_completes_setReg (i := .xorReg x y) (s := s) rfl
    exact ⟨t, ht, fun b _ => hreg ▸ BitVec.getLsbD_xor, hrest⟩

/-! ### Arithmetic and shifts with a flag -/

/-- Settles O10. -/
theorem addSetsCarry : Obligations.AddSetsCarry := by
  refine fun x y => ⟨decodeWord_class8 _ 4 rfl rfl, fun s => ?_⟩
  obtain ⟨t, ht, hreg, hflag, hrest⟩ := exec_completes_writeFlagged (i := .addReg x y) (s := s) rfl
  exact ⟨t, ht, fun hx => hreg hx ▸ toNat_addBytes _ _, hflag.trans (flagByte_decide _), hrest⟩

/-- Settles O11. -/
theorem subtractSetsBorrow : Obligations.SubtractSetsBorrow := by
  refine fun x y => ⟨decodeWord_class8 _ 5 rfl rfl, fun s => ?_⟩
  obtain ⟨t, ht, hreg, hflag, hrest⟩ := exec_completes_writeFlagged (i := .sub x y) (s := s) rfl
  exact ⟨t, ht, fun hx => hreg hx ▸ toNat_subBytes _ _, hflag.trans (flagByte_decide _), hrest⟩

/-- Settles O12. -/
theorem reverseSubtractSetsBorrow : Obligations.ReverseSubtractSetsBorrow := by
  refine fun x y => ⟨decodeWord_class8 _ 7 rfl rfl, fun s => ?_⟩
  obtain ⟨t, ht, hreg, hflag, hrest⟩ := exec_completes_writeFlagged (i := .subn x y) (s := s) rfl
  exact ⟨t, ht, fun hx => hreg hx ▸ toNat_subBytes _ _, hflag.trans (flagByte_decide _), hrest⟩

/-- Settles O13. -/
theorem shiftsMoveVy : Obligations.ShiftsMoveVy := by
  refine fun x y => ⟨decodeWord_class8 _ 6 rfl rfl, decodeWord_class8 _ 14 rfl rfl, fun s => ⟨?right, ?left⟩⟩
  case right =>
    obtain ⟨t, ht, hreg, hflag, hrest⟩ := exec_completes_writeFlagged (i := .shr x y) (s := s) rfl
    exact ⟨t, ht, fun hx => hreg hx ▸ toNat_halfByte _, hflag ▸ toNat_flagByte_lowBit _, hrest⟩
  case left =>
    obtain ⟨t, ht, hreg, hflag, hrest⟩ := exec_completes_writeFlagged (i := .shl x y) (s := s) rfl
    exact ⟨t, ht, fun hx => hreg hx ▸ toNat_doubleByte _, hflag ▸ toNat_flagByte_highBit _, hrest⟩

end Sys2Proof.Machine
end

section
/-! PROOFS. Random (R93): what it reads, and that no other cycle reads the random byte (R7; log 5). -/

namespace Sys2Proof.Machine

/-- The random byte is the host's where it gave one (log 5). -/
theorem State.rndInput_of_inputs {s : State} {c : CycleInput} {rest : List CycleInput} (h : s.inputs = c :: rest) :
    s.rndInput = c.rnd := by
  simp only [State.rndInput, h]

@[simp] theorem State.reg_closeCycle (s : State) (x : Reg) : s.closeCycle.reg x = s.reg x :=
  State.reg_congr s.closeCycle_fields.1 x

/-- A Random cycle leaves the given byte under the mask (R93). -/
theorem State.reg_cycle_rnd (s : State) (tick : Bool) (r : Byte) (x : Reg) (kk : Byte) :
    ((s.givenInputs tick r).after (.rnd x kk)).closeCycle.reg x = r &&& kk :=
  (State.reg_closeCycle _ x).trans ((s.givenInputs tick r).reg_setReg_self x (r &&& kk))

/-- The end of a cycle reads the tick and not the random byte (R127). -/
theorem State.closeCycle_givenInputs (s : State) (tick : Bool) (r r' : Byte) :
    (s.givenInputs tick r).closeCycle = (s.givenInputs tick r').closeCycle := by
  cases tick <;> rfl

/-- An instruction other than Random does not read the given inputs: they pass through it. -/
theorem State.after_givenInputs (s : State) {i : Instr} (tick : Bool) (r : Byte) (h : ∀ x kk, i ≠ .rnd x kk) :
    (s.givenInputs tick r).after i = (s.after i).givenInputs tick r := by
  cases i with
  | rnd x kk => exact absurd rfl (h x kk)
  | _ => rfl

/-- An instruction other than Random, with the end of its cycle, does the same for every random byte. -/
theorem endCycle_exec_givenInputs (s : State) {i : Instr} (tick : Bool) (r r' : Byte) (h : ∀ x kk, i ≠ .rnd x kk) :
    endCycle (exec i (s.givenInputs tick r)) = endCycle (exec i (s.givenInputs tick r')) := by
  simp only [exec_eq, State.instrCheck_givenInputs, State.after_givenInputs _ _ _ h]
  cases s.instrCheck i with
  | some f => rfl
  | none => exact congrArg Host.Outcome.next ((s.after i).closeCycle_givenInputs tick r r')

@[simp] theorem State.fetchCheck_givenInputs (s : State) (tick : Bool) (r : Byte) :
    (s.givenInputs tick r).fetchCheck = s.fetchCheck := rfl

@[simp] theorem State.fetchWord_givenInputs (s : State) (tick : Bool) (r : Byte) :
    (s.givenInputs tick r).fetchWord = s.fetchWord := rfl

/-- A cycle that does not fetch Random does the same for every random byte. -/
theorem step_givenInputs_of_not_rnd {s : State} (h : ∀ x kk, ¬ s.Fetches (.rnd x kk)) (tick : Bool) (r r' : Byte) :
    step (s.givenInputs tick r) = step (s.givenInputs tick r') := by
  simp only [step, State.fetchCheck_givenInputs, State.fetchWord_givenInputs]
  cases hf : s.fetchCheck with
  | some f => rfl
  | none =>
    cases hd : decodeWord s.fetchWord with
    | error e => rfl
    | ok i =>
      exact endCycle_exec_givenInputs s tick r r' fun x kk hi => h x kk (State.fetches_iff.2 ⟨hf, hi ▸ hd⟩)

/-- Settles O14: Random reads the byte given for the cycle, and no other cycle depends on it. -/
theorem randomIsMasked : Obligations.RandomIsMasked := by
  refine ⟨fun x kk => ⟨decodeWord_encode (.rnd x kk), fun s =>
      ⟨exec_completes_setReg rfl, fun c rest => State.rndInput_of_inputs⟩⟩,
    fun s tick r => ⟨fun x kk hi => ?random, ?other⟩⟩
  case random =>
    rw [hostStep_runCycle_of_fetches tick r hi rfl]
    exact ⟨rfl, s.reg_cycle_rnd tick r x kk⟩
  case other => exact fun h r' => congrArg (cycleReply s) (step_givenInputs_of_not_rnd h tick r r')

end Sys2Proof.Machine
end

section
/-! PROOFS. The index register and memory (R96 to R101): the decoder's words of class F, results and digits as numbers,
the bounds of a transfer, and each instruction from its check and what it leaves. -/

namespace Sys2Proof.Machine

/-! ### Words of class F -/

/-- The word of class F with selector `kk`, with class and selector in one number, decodes to the instruction whose word
it is (R55). -/
theorem decodeWord_classF {i : Instr} {x : Reg} (k : Nat) (kk : Byte) (hi : encode i = formXkk 15 x kk)
    (hk : k = 0xF000 + kk.toNat) : decodeWord (BitVec.ofNat 16 (k + x.val * 0x100)) = .ok i := by
  have hw : BitVec.ofNat 16 (k + x.val * 0x100) = encode i := by
    rw [hi, formXkk, hk]
    congr 1
    omega
  rw [hw, decodeWord_encode]

/-! ### The index register -/

/-- `I` after an Add to index is the sum modulo 65536 (R97). -/
theorem toNat_add_byteOperand (w : Word) (b : Byte) : (w + byteOperand b).toNat = (w.toNat + b.toNat) % 65536 := by
  rw [BitVec.toNat_add, byteOperand, BitVec.toNat_setWidth_of_le (by decide)]

/-- Five times a byte fits in `I` (R98). -/
theorem toNat_glyphAddr (b : Byte) : (glyphAddr b).toNat = 5 * b.toNat :=
  toNat_ofNat_word (by simp only [Config.glyphBytes]; omega)

/-- What the font check raises (R98). -/
theorem fontCheck_eq_some {b : Byte} (h : b.toNat > 15) : fontCheck b = some (.invalidFontDigit b) :=
  if_pos h

/-- Settles O15. -/
theorem setAndAddIndex : Obligations.SetAndAddIndex := by
  refine ⟨fun nnn => ⟨decodeWord_encode (.ldI nnn), fun s => ?set⟩,
    fun x => ⟨decodeWord_classF _ 0x1E rfl rfl, fun s => ?add⟩⟩
  case set =>
    exact ⟨s.after (.ldI nnn), exec_eq_next.2 ⟨rfl, rfl⟩, toNat_addrOperand nnn, rfl, s.unchangedBut_after (.ldI nnn)⟩
  case add =>
    exact ⟨s.after (.addI x), exec_eq_next.2 ⟨rfl, rfl⟩, toNat_add_byteOperand s.i (s.reg x), rfl,
      s.unchangedBut_after (.addI x)⟩

/-- Settles O16. -/
theorem fontAddress : Obligations.FontAddress := by
  refine fun x => ⟨decodeWord_classF _ 0x29 rfl rfl, fun s => ⟨fun hlarge => ?fault, fun hdigit => ?digit⟩⟩
  case fault => exact exec_eq_fault.2 (fontCheck_eq_some hlarge)
  case digit =>
    exact ⟨s.after (.ldF x), exec_eq_next.2 ⟨fontCheck_eq_none.2 hdigit, rfl⟩, toNat_glyphAddr (s.reg x), rfl,
      s.unchangedBut_after (.ldF x)⟩

/-! ### Transfers -/

/-- A transfer whose last byte, `n` past its first, lies outside memory faults (R39). -/
theorem exec_fault_of_bounds {i : Instr} {s : State} {n : Nat} (hi : s.instrCheck i = boundsCheck s.i.toNat (n + 1))
    (h : s.i.toNat + n > 4095) : exec i s = .fault (.memOutOfRange (max s.i.toNat 4096)) :=
  exec_eq_fault.2 (hi.trans (boundsCheck_eq_some.2 ⟨by omega, rfl⟩))

/-- A transfer whose last byte, `n` past its first, lies in memory completes (R39). -/
theorem exec_next_of_bounds {i : Instr} {s : State} {n : Nat} (hi : s.instrCheck i = boundsCheck s.i.toNat (n + 1))
    (h : s.i.toNat + n ≤ 4095) : exec i s = .next (s.after i) :=
  exec_eq_next.2 ⟨hi.trans (boundsCheck_eq_none.2 (by omega)), rfl⟩

/-- Byte `k` of a block of stores is in memory `k` past its address. -/
theorem State.readByte_storeBytes_add (s : State) (a : Nat) (bs : List Byte) {k : Nat} (hk : k < bs.length) :
    (s.storeBytes a bs).readByte (a + k) = bs.getD k 0 := by
  rw [State.readByte_storeBytes, if_pos ⟨Nat.le_add_right _ _, Nat.add_lt_add_left hk _⟩, Nat.add_sub_cancel_left]

/-- A Store BCD puts digit `k` at `I + k` (R99). -/
theorem State.readByte_after_ldB (s : State) (x : Reg) {k : Nat} (hk : k < 3) :
    (s.after (.ldB x)).readByte (s.i.toNat + k) = (bcdDigits (s.reg x)).getD k 0 :=
  s.readByte_storeBytes_add s.i.toNat (bcdDigits (s.reg x)) hk

/-- A number below 256 keeps its value in a byte (R8). -/
theorem toNat_ofNat_byte {k : Nat} (h : k < 256) : (BitVec.ofNat 8 k : Byte).toNat = k :=
  (BitVec.toNat_ofNat ..).trans (Nat.mod_eq_of_lt h)

/-- Settles O17: the three stored digits are below 10, so each keeps its value in a byte. -/
theorem storeBcd : Obligations.StoreBcd := by
  refine fun x => ⟨decodeWord_classF _ 0x33 rfl rfl, fun s => ⟨exec_fault_of_bounds rfl, fun hbound => ?_⟩⟩
  have hhundreds := s.readByte_after_ldB x (k := 0) (by decide)
  have htens := s.readByte_after_ldB x (k := 1) (by decide)
  have hones := s.readByte_after_ldB x (k := 2) (by decide)
  exact ⟨s.after (.ldB x), exec_next_of_bounds rfl hbound,
    (congrArg BitVec.toNat hhundreds).trans (toNat_ofNat_byte (by omega)),
    (congrArg BitVec.toNat htens).trans (toNat_ofNat_byte (by omega)),
    (congrArg BitVec.toNat hones).trans (toNat_ofNat_byte (by omega)),
    s.leavesRest_after (.ldB x), rfl, s.unchangedBut_after (.ldB x)⟩

/-- Settles O18. -/
theorem blockStore : Obligations.BlockStore := by
  refine fun x => ⟨decodeWord_classF _ 0x55 rfl rfl, fun s => ⟨exec_fault_of_bounds rfl, fun hbound => ?_⟩⟩
  exact ⟨s.after (.stBlock x), exec_next_of_bounds rfl hbound, fun k => s.readByte_after_stBlock,
    s.leavesRest_after (.stBlock x), rfl, s.unchangedBut_after (.stBlock x)⟩

/-- A Block load writes V0 to Vx and no flag (R101). -/
theorem writtenRegs_ldBlock (x : Reg) : writtenRegs (.ldBlock x) = blockRegs x :=
  List.append_nil _

/-- Settles O19. -/
theorem blockLoad : Obligations.BlockLoad := by
  refine fun x => ⟨decodeWord_classF _ 0x65 rfl rfl, fun s => ⟨exec_fault_of_bounds rfl, fun hbound => ?_⟩⟩
  exact ⟨s.after (.ldBlock x), exec_next_of_bounds rfl hbound,
    fun k hk => (s.reg_loadedRegs x k).trans (if_pos hk),
    fun k hk => (s.reg_loadedRegs x k).trans (if_neg (not_le_of_gt hk)), rfl,
    writtenRegs_ldBlock x ▸ s.unchangedBut_after (.ldBlock x)⟩

/-- Settles O48: the store keeps `I`, so the load reads the bytes that the store has put there. -/
theorem blockStoreThenLoad : Obligations.BlockStoreThenLoad := by
  intro s x v hbound
  obtain ⟨t, hstore, hbytes, -, -, hframe⟩ := ((blockStore x).2 s).2 hbound
  have hi : (t.setRegs v).i = s.i := hframe.2 .index (by decide)
  obtain ⟨u, hload, hregs, -⟩ := ((blockLoad x).2 (t.setRegs v)).2 (hi.symm ▸ hbound)
  refine ⟨t, u, hstore, hload, fun k hk => ?_⟩
  rw [hregs k hk, hi, State.readByte_setRegs, hbytes k hk]

end Sys2Proof.Machine
end

section
/-! PROOFS. The display (R104, R105): the cells and the collision of a draw in terms of the cells it touches, and the two
instructions. -/

namespace Sys2Proof.Machine

/-- Settles O1. -/
theorem clearDisplay : Obligations.ClearDisplay := by
  refine ⟨decodeWord_encode .cls, fun s => ?_⟩
  obtain ⟨t, ht, hpc, hframe⟩ := exec_completes (i := .cls) (s := s) rfl
  obtain ⟨-, rfl⟩ := exec_eq_next.1 ht
  exact ⟨s.after .cls, ht, Framebuffer.pixel_blank, rfl, hpc, hframe⟩

/-! ### The cells a draw touches -/

/-- A touched cell is the target of a set bit of the bytes that the draw reads. -/
theorem State.touches_iff_target {s : State} {vx vy : Byte} {n : Nat} {px : Fin 64} {py : Fin 32} :
    s.Touches vx vy n px py ↔ ∃ row < n, ∃ col < 8,
      ((s.mem.readBytes s.i.toNat n).getD row 0).getLsbD (7 - col) = true ∧
        targetX vx col = px ∧ targetY vy row = py := by
  simp only [State.Touches, targetX_eq_iff, targetY_eq_iff]
  refine exists_congr fun row => and_congr_right fun hrow => ?_
  rw [Memory.getD_readBytes _ _ hrow]
  rfl

/-- Every touched cell is toggled: rows and columns are too few to meet a cell twice (R105). -/
theorem State.pixel_drawn_touched (s : State) {vx vy : Byte} {n : Nat} {px : Fin 64} {py : Fin 32} (hn : n ≤ 32)
    (h : s.Touches vx vy n px py) : (s.drawn vx vy n).fb.pixel px py = !s.pixel px py := by
  obtain ⟨row, hrow, col, hcol, hbit, rfl, rfl⟩ := State.touches_iff_target.1 h
  have htoggled := Canvas.drawRows_touched vx vy (s.mem.readBytes s.i.toNat n) 0 { fb := s.fb, hit := false }
    (by simpa using hn) (by simpa using hrow) hcol hbit
  rwa [Nat.zero_add] at htoggled

/-- A draw notes a collision exactly where it touches a set cell (R105). -/
theorem State.hit_drawn (s : State) {vx vy : Byte} {n : Nat} (hn : n ≤ 32) :
    (s.drawn vx vy n).hit = true ↔ ∃ px py, s.Touches vx vy n px py ∧ s.pixel px py = true := by
  rw [State.drawn, Canvas.drawRows_hit _ _ _ _ _ (by simpa using hn)]
  simp only [Memory.length_readBytes, Nat.zero_add, State.touches_iff_target]
  constructor
  · rintro (h | ⟨row, hrow, col, hcol, hbit, hset⟩)
    · cases h
    · exact ⟨_, _, ⟨row, hrow, col, hcol, hbit, rfl, rfl⟩, hset⟩
  · rintro ⟨px, py, ⟨row, hrow, col, hcol, hbit, rfl, rfl⟩, hset⟩
    exact .inr ⟨row, hrow, col, hcol, hbit, hset⟩

/-- VF after a draw is the collision (R105). -/
theorem State.flag_after_drw (s : State) (x y : Reg) (n : Fin 16) :
    (s.after (.drw x y n)).reg VF = flagByte (s.drawn (s.reg x) (s.reg y) n.val).hit :=
  s.reg_setReg_self VF _

/-- Which cells a draw touches depends on `I` and memory alone. -/
theorem State.touches_congr {s t : State} (hi : t.i = s.i) (hmem : ∀ a, t.readByte a = s.readByte a)
    {vx vy : Byte} {n : Nat} {px : Fin 64} {py : Fin 32} : t.Touches vx vy n px py ↔ s.Touches vx vy n px py := by
  simp only [State.Touches, hi, hmem]

/-! ### Draw sprite -/

/-- Settles O2: the bounds check, then the cells and the flag of the drawn canvas. -/
theorem drawSprite : Obligations.DrawSprite := by
  refine fun x y n => ⟨decodeWord_encode (.drw x y n), fun s => ⟨fun hout => ?fault, fun hbound => ?draw⟩⟩
  case fault => exact exec_eq_fault.2 (boundsCheck_eq_some.2 ⟨by omega, rfl⟩)
  case draw =>
    have hn : n.val ≤ 32 := by omega
    obtain ⟨t, ht, hpc, hframe⟩ := exec_completes (i := .drw x y n) (s := s) (boundsCheck_eq_none.2 (by omega))
    obtain ⟨-, rfl⟩ := exec_eq_next.1 ht
    refine ⟨s.after (.drw x y n), ht, fun px py => s.pixel_drawn_touched hn, s.leavesRest_after (.drw x y n),
      fun hset => ?collision, fun hclear => ?noCollision, rfl, hpc, hframe⟩
    case collision => rw [State.flag_after_drw, (s.hit_drawn hn).2 hset, flagByte, if_pos rfl]
    case noCollision =>
      have hhit : ¬ (s.drawn (s.reg x) (s.reg y) n.val).hit = true := fun h => by
        obtain ⟨px, py, htouch, hset⟩ := (s.hit_drawn hn).1 h
        exact Bool.eq_false_iff.1 (hclear px py htouch) hset
      rw [State.flag_after_drw, flagByte, if_neg hhit]

/-- Settles O49: the first draw keeps `I`, memory and the coordinates, so the second touches the same cells and toggles
each of them back. -/
theorem drawTwiceRestores : Obligations.DrawTwiceRestores := by
  intro s x y n hx hy hbound
  obtain ⟨t, hfirst, htoggle, hkeep, -, -, -, -, hreg, hpart⟩ := ((drawSprite x y n).2 s).2 hbound
  have hi : t.i = s.i := hpart .index (by decide)
  have htouches : ∀ px py, t.Touches (t.reg x) (t.reg y) n.val px py ↔ s.Touches (s.reg x) (s.reg y) n.val px py := by
    intro px py
    rw [hreg x (List.mem_singleton.not.2 hx), hreg y (List.mem_singleton.not.2 hy)]
    exact State.touches_congr hi (hpart .memory (by decide))
  obtain ⟨u, hsecond, htoggle', hkeep', hset, hclear, -⟩ := ((drawSprite x y n).2 t).2 (hi.symm ▸ hbound)
  simp only [htouches] at htoggle' hkeep' hset hclear
  refine ⟨t, u, hfirst, hsecond, Framebuffer.ext_pixel fun px py => ?cells, ?flag⟩
  case cells =>
    change u.pixel px py = s.pixel px py
    by_cases htouch : s.Touches (s.reg x) (s.reg y) n.val px py
    · rw [htoggle' px py htouch, htoggle px py htouch, Bool.not_not]
    · rw [hkeep' px py htouch, hkeep px py htouch]
  case flag =>
    by_cases hmeet : ∃ px py, s.Touches (s.reg x) (s.reg y) n.val px py ∧ t.pixel px py = true
    · exact ⟨iff_of_true (hset hmeet) hmeet, .inr (hset hmeet)⟩
    · have hzero : u.reg VF = 0 := hclear fun px py htouch =>
        Bool.eq_false_iff.2 fun hpixel => hmeet ⟨px, py, htouch, hpixel⟩
      exact ⟨iff_of_false (by rw [hzero]; decide) hmeet, .inl hzero⟩

end Sys2Proof.Machine
end

section
/-! PROOFS. The keypad and the timers (R108 to R113): the decoder's words with a selector byte, the key check and the least key, and
each instruction from its check and what it leaves. -/

namespace Sys2Proof.Machine

/-! ### Key skips -/

/-- The word with operands `x` and `kk`, with class and selector in one number, decodes to the instruction whose word it is
(R55). -/
theorem decodeWord_of_encode_formXkk {i : Instr} {cls : Nat} {x : Reg} {kk : Byte} (k : Nat)
    (hi : encode i = formXkk cls x kk) (hk : k = cls * 4096 + kk.toNat) :
    decodeWord (BitVec.ofNat 16 (k + x.val * 0x100)) = .ok i := by
  have hw : BitVec.ofNat 16 (k + x.val * 0x100) = encode i := by
    rw [hi, formXkk, hk]
    congr 1
    omega
  rw [hw, decodeWord_encode]

/-- What the key check raises (R108). -/
theorem keyCheck_eq_some {b : Byte} (h : b.toNat > 15) : keyCheck b = some (.invalidKeyIndex b) :=
  if_pos h

/-- A byte that is the number of a key has that key as its index (R108). -/
theorem keyIndex_eq {b : Byte} {k : Fin 16} (h : b.toNat = k.val) : keyIndex b = k :=
  Fin.ext (by simp only [keyIndex, Fin.val_ofNat]; omega)

/-- Both key skips complete where Vx is the number of a key, with that flag consumed, the other flags kept, and PC by the
table of R25 (R108, R109). -/
theorem exec_completes_keySkip {i : Instr} {x : Reg} {s : State} {k : Fin 16} (hi : i = .skp x ∨ i = .sknp x)
    (hk : (s.reg x).toNat = k.val) :
    ∃ t, exec i s = .next t ∧ t.keyDown k = false ∧ (∀ j, j ≠ k → t.keyDown j = s.keyDown j) ∧ t.pc = pcAfter s i ∧
      UnchangedBut [] [.keys] s t := by
  have hc : keyCheck (s.reg x) = none := keyCheck_eq_none.2 (by omega)
  obtain rfl := keyIndex_eq hk
  have hconsumed : (s.setKey (keyIndex (s.reg x)) false).keyDown (keyIndex (s.reg x)) = false :=
    (s.keyDown_setKey _ _ false).trans (if_pos rfl)
  obtain rfl | rfl := hi
  · exact ⟨s.after (.skp x), exec_eq_next.2 ⟨hc, rfl⟩, hconsumed, s.leavesRest_after (.skp x), rfl,
      s.unchangedBut_after (.skp x)⟩
  · exact ⟨s.after (.sknp x), exec_eq_next.2 ⟨hc, rfl⟩, hconsumed, s.leavesRest_after (.sknp x), rfl,
      s.unchangedBut_after (.sknp x)⟩

/-- Settles O20. -/
theorem keySkipsConsume : Obligations.KeySkipsConsume := by
  refine fun x => ⟨decodeWord_of_encode_formXkk _ rfl rfl, decodeWord_of_encode_formXkk _ rfl rfl, fun s =>
    ⟨fun hlarge => ?fault, fun k hk => ?key⟩⟩
  case fault => exact ⟨exec_eq_fault.2 (keyCheck_eq_some hlarge), exec_eq_fault.2 (keyCheck_eq_some hlarge)⟩
  case key =>
    obtain rfl := keyIndex_eq hk
    exact ⟨exec_completes_keySkip (.inl rfl) hk, exec_completes_keySkip (.inr rfl) hk⟩

/-! ### Wait for key -/

/-- A set flag with none set below it is the least key: of two different ones, the lower would be set below the other (R111). -/
theorem State.lowestKey_of_least {s : State} {k : Fin 16} (hk : s.keyDown k = true)
    (hleast : ∀ j, j < k → s.keyDown j = false) : s.lowestKey = some k := by
  cases hl : s.lowestKey with
  | none => exact absurd hk (by simp [State.lowestKey_eq_none.1 hl k])
  | some j =>
    obtain ⟨hj, hbelow⟩ := State.lowestKey_eq_some hl
    have hkj : ¬ k < j := fun hlt => by simp [hbelow k hlt] at hk
    have hjk : ¬ j < k := fun hlt => by simp [hleast j hlt] at hj
    exact congrArg some (le_antisymm (not_lt.1 hkj) (not_lt.1 hjk))

/-- A Wait for key that finds a key clears the flags and takes the key's number (R111). -/
theorem exec_ldVxK_of_lowestKey {s : State} {k : Fin 16} (x : Reg) (h : s.lowestKey = some k) :
    exec (.ldVxK x) s = .next (s.clearKeys.setReg x (BitVec.ofNat 8 k.val)).advance := by
  simp only [exec, execLdVxK, h]

/-- Settles O21. -/
theorem waitForKey : Obligations.WaitForKey := by
  refine fun x => ⟨decodeWord_classF _ 0x0A rfl rfl, fun s => ⟨fun hnone => ?wait, fun k hk hleast => ?key⟩⟩
  case wait =>
    exact ⟨s.after (.ldVxK x), exec_eq_next.2 ⟨rfl, rfl⟩, if_pos hnone, s.unchangedBut_after_wait x hnone⟩
  case key =>
    have hexec := exec_ldVxK_of_lowestKey x (State.lowestKey_of_least hk hleast)
    have hreg := s.clearKeys.reg_setReg_self x (BitVec.ofNat 8 k.val)
    refine ⟨_, hexec, (congrArg BitVec.toNat hreg).trans (toNat_ofNat_byte (by omega)), s.keyDown_clearKeys, rfl, ?_⟩
    obtain ⟨-, hafter⟩ := exec_eq_next.1 hexec
    exact hafter ▸ s.unchangedBut_after (.ldVxK x)

/-! ### Timers -/

/-- Settles O22. -/
theorem timerMoves : Obligations.TimerMoves := by
  refine fun x => ⟨decodeWord_classF _ 0x07 rfl rfl, decodeWord_classF _ 0x15 rfl rfl, decodeWord_classF _ 0x18 rfl rfl,
    fun s => ⟨exec_completes_setReg rfl, ?delay, ?sound⟩⟩
  case delay =>
    exact ⟨s.after (.ldDtVx x), exec_eq_next.2 ⟨rfl, rfl⟩, rfl, rfl, s.unchangedBut_after (.ldDtVx x)⟩
  case sound =>
    exact ⟨s.after (.ldStVx x), exec_eq_next.2 ⟨rfl, rfl⟩, rfl, rfl, s.unchangedBut_after (.ldStVx x)⟩

end Sys2Proof.Machine
end

section
/-! PROOFS. The exceptions (R120 to R124): the faults of a cycle are those of the table, none depends on the host's inputs,
and a failing cycle leaves the state as it was. -/

namespace Sys2Proof.Machine

section Faults

variable {s : State} {f : Fault}

/-! ### What each check raises -/

/-- What the Call's check raises (R72). -/
theorem State.overflowCheck_eq_some : s.overflowCheck = some f ↔ s.sp = 15 ∧ .stackOverflow s.sp = f := by
  simp only [State.overflowCheck, Option.ite_none_right_eq_some, Option.some.injEq]

/-- What the Return's check raises (R70). -/
theorem State.underflowCheck_eq_some : s.underflowCheck = some f ↔ s.sp = 0 ∧ .stackUnderflow s.sp = f := by
  simp only [State.underflowCheck, Option.ite_none_right_eq_some, Option.some.injEq]

/-- The font check raises on every byte above 15 and on no other (R98). -/
theorem fontCheck_eq_some_iff {b : Byte} : fontCheck b = some f ↔ 15 < b.toNat ∧ .invalidFontDigit b = f := by
  simp only [fontCheck, Option.ite_none_right_eq_some, Option.some.injEq]

/-- The key check raises on every byte above 15 and on no other (R108). -/
theorem keyCheck_eq_some_iff {b : Byte} : keyCheck b = some f ↔ 15 < b.toNat ∧ .invalidKeyIndex b = f := by
  simp only [keyCheck, Option.ite_none_right_eq_some, Option.some.injEq]

/-! ### The table of R120 -/

/-- The end of a cycle raises no fault of its own. -/
theorem endCycle_eq_fault {o : Host.Outcome State Fault Refusal} : endCycle o = .fault f ↔ o = .fault f := by
  cases o <;> simp [endCycle]

/-- A cycle that fetches an instruction faults exactly when the instruction's check raises. -/
theorem step_eq_fault_of_fetches {i : Instr} (hi : s.Fetches i) : step s = .fault f ↔ s.instrCheck i = some f := by
  rw [step_of_fetches hi, endCycle_eq_fault, exec_eq_fault]

/-- What the check of the fetched instruction raises, the table lists. -/
theorem State.Fetches.faultCondition {i : Instr} (hi : s.Fetches i) (hc : s.instrCheck i = some f) :
    FaultCondition s f := by
  cases i with
  | ret =>
    obtain ⟨hsp, rfl⟩ := State.underflowCheck_eq_some.1 hc
    exact ⟨hsp, hsp, hi⟩
  | call nnn =>
    obtain ⟨hsp, rfl⟩ := State.overflowCheck_eq_some.1 hc
    exact ⟨hsp, hsp, nnn, hi⟩
  | drw x y n =>
    obtain ⟨hout, rfl⟩ := boundsCheck_eq_some.1 hc
    exact ⟨rfl, .inl ⟨x, y, n, hi, by omega⟩⟩
  | ldB x =>
    obtain ⟨hout, rfl⟩ := boundsCheck_eq_some.1 hc
    exact ⟨rfl, .inr (.inl ⟨x, hi, by omega⟩)⟩
  | stBlock x =>
    obtain ⟨hout, rfl⟩ := boundsCheck_eq_some.1 hc
    exact ⟨rfl, .inr (.inr ⟨x, .inl hi, by omega⟩)⟩
  | ldBlock x =>
    obtain ⟨hout, rfl⟩ := boundsCheck_eq_some.1 hc
    exact ⟨rfl, .inr (.inr ⟨x, .inr hi, by omega⟩)⟩
  | ldF x =>
    obtain ⟨hlarge, rfl⟩ := fontCheck_eq_some_iff.1 hc
    exact ⟨hlarge, x, hi, rfl⟩
  | skp x =>
    obtain ⟨hlarge, rfl⟩ := keyCheck_eq_some_iff.1 hc
    exact ⟨hlarge, x, .inl hi, rfl⟩
  | sknp x =>
    obtain ⟨hlarge, rfl⟩ := keyCheck_eq_some_iff.1 hc
    exact ⟨hlarge, x, .inr hi, rfl⟩
  | _ => cases hc

/-- A fault is listed: the fetch raised it, or decode, or the check of the fetched instruction (R122). -/
theorem faultCondition_of_step (h : step s = .fault f) : FaultCondition s f := by
  by_cases hpc : 4095 < s.pc.toNat + 1
  · cases (step_of_fetch_outside hpc).symm.trans h
    exact ⟨hpc, rfl⟩
  have hf : s.fetchCheck = none := State.fetchCheck_eq_none.2 (by omega)
  by_cases hd : ∃ i, decodeWord s.fetchWord = .ok i
  · obtain ⟨i, hi⟩ := hd
    have hi : s.Fetches i := State.fetches_iff.2 ⟨hf, hi⟩
    exact hi.faultCondition ((step_eq_fault_of_fetches hi).1 h)
  · have hd := not_exists.1 hd
    cases (step_of_illegal_word hf hd).symm.trans h
    exact ⟨not_lt.1 hpc, rfl, hd⟩

/-- What the table lists is raised: by the fetch, by decode, or by the check of the instruction the table names. -/
theorem step_of_faultCondition (h : FaultCondition s f) : step s = .fault f := by
  cases f with
  | fetchOutOfRange pc =>
    obtain ⟨hpc, rfl⟩ := h
    exact step_of_fetch_outside hpc
  | illegalInstruction w =>
    obtain ⟨hpc, rfl, hd⟩ := h
    exact step_of_illegal_word (State.fetchCheck_eq_none.2 (by omega)) hd
  | stackOverflow sp =>
    obtain ⟨hsp, rfl, nnn, hi⟩ := h
    exact (step_eq_fault_of_fetches hi).2 (State.overflowCheck_eq_some.2 ⟨hsp, congrArg _ hsp⟩)
  | stackUnderflow sp =>
    obtain ⟨hsp, rfl, hi⟩ := h
    exact (step_eq_fault_of_fetches hi).2 (State.underflowCheck_eq_some.2 ⟨hsp, congrArg _ hsp⟩)
  | memOutOfRange a =>
    obtain ⟨rfl, ⟨x, y, n, hi, hn, hout⟩ | ⟨x, hi, hout⟩ | ⟨x, hi | hi, hout⟩⟩ := h
    all_goals exact (step_eq_fault_of_fetches hi).2 (boundsCheck_eq_some.2 ⟨by omega, rfl⟩)
  | invalidFontDigit vx =>
    obtain ⟨hlarge, x, hi, rfl⟩ := h
    exact (step_eq_fault_of_fetches hi).2 (fontCheck_eq_some hlarge)
  | invalidKeyIndex vx =>
    obtain ⟨hlarge, x, hi | hi, rfl⟩ := h
    all_goals exact (step_eq_fault_of_fetches hi).2 (keyCheck_eq_some hlarge)

/-- A cycle faults exactly as the table lists (R120). -/
theorem step_eq_fault : step s = .fault f ↔ FaultCondition s f :=
  ⟨faultCondition_of_step, step_of_faultCondition⟩

/-- No condition of the table reads the inputs of the coming cycles, or how many cycles there were (R124). -/
theorem faultCondition_withInputs (ins : List CycleInput) (c : Nat) :
    FaultCondition { s with inputs := ins, cycles := c } f ↔ FaultCondition s f :=
  Iff.rfl

/-! ### The cycle as the host sees it -/

/-- A cycle that is not answered `OK` leaves the state from before (R121). -/
theorem cycleReply_fst_of_ne_ok {o : Host.Outcome State Fault Refusal} (h : (cycleReply s o).2 ≠ .ok) :
    (cycleReply s o).1 = s := by
  cases o with
  | next t => exact absurd rfl h
  | fault f => rfl
  | refused r => rfl

end Faults

/-! ### The exceptions -/

/-- Settles O26. -/
theorem faultsExactlyAsListed : Obligations.FaultsExactlyAsListed :=
  ⟨fun _ _ => step_eq_fault, fun _ => ⟨rfl, rfl⟩, fun _ => ⟨rfl, rfl⟩, fun _ => ⟨rfl, rfl⟩, fun _ => ⟨rfl, rfl⟩,
    fun _ => ⟨rfl, rfl⟩, fun _ => ⟨rfl, rfl⟩, fun _ => ⟨rfl, rfl⟩⟩

/-- Settles O28: the condition of the fault still holds with the other inputs, and the table says that it is raised. -/
theorem faultIgnoresInputs : Obligations.FaultIgnoresInputs :=
  fun _ _ ins c h => step_eq_fault.2 ((faultCondition_withInputs ins c).2 (step_eq_fault.1 h))

/-- Settles O27: Run one cycle answers from the step's outcome. -/
theorem failingCycleChangesNothing : Obligations.FailingCycleChangesNothing :=
  fun s _ _ => ⟨fun _ => congrArg (cycleReply s), fun _ => congrArg (cycleReply s), cycleReply_fst_of_ne_ok⟩

end Sys2Proof.Machine
end

section
/-! PROOFS. The timers over a whole cycle (R126, R127): the instruction first, then the step of both where `tick` is 1. -/

namespace Sys2Proof.Machine

/-- Closing a cycle steps the delay timer where `tick` is 1 (R126). -/
theorem State.toNat_dt_closeCycle (s : State) :
    s.closeCycle.dt.toNat = if s.tickInput = true then s.dt.toNat - 1 else s.dt.toNat := by
  obtain ⟨-, -, -, -, -, -, -, -, -, -, -, hdt, -⟩ := s.closeCycle_fields
  rw [hdt, apply_ite BitVec.toNat, countDown_toNat]

/-- Closing a cycle steps the sound timer where `tick` is 1 (R126). -/
theorem State.toNat_st_closeCycle (s : State) :
    s.closeCycle.st.toNat = if s.tickInput = true then s.st.toNat - 1 else s.st.toNat := by
  obtain ⟨-, -, -, -, -, -, -, -, -, -, -, -, hst⟩ := s.closeCycle_fields
  rw [hst, apply_ite BitVec.toNat, countDown_toNat]

/-- An instruction other than `LD DT` keeps the delay timer (R15, R112). -/
theorem State.dtAfter_of_ne (s : State) {i : Instr} (h : ∀ x, i ≠ .ldDtVx x) : s.dtAfter i = s.dt := by
  cases i with
  | ldDtVx x => exact absurd rfl (h x)
  | _ => rfl

/-- An instruction other than `LD ST` keeps the sound timer (R15, R113). -/
theorem State.stAfter_of_ne (s : State) {i : Instr} (h : ∀ x, i ≠ .ldStVx x) : s.stAfter i = s.st := by
  cases i with
  | ldStVx x => exact absurd rfl (h x)
  | _ => rfl

/-- A cycle answered `OK` has passed the check of the instruction it fetched. -/
theorem instrCheck_of_runCycle_ok {s : State} {tick : Bool} {rnd : Byte} {i : Instr} (hi : s.Fetches i)
    (hok : (hostStep (.runCycle tick rnd) s).2 = .ok) : s.instrCheck i = none := by
  cases hc : s.instrCheck i with
  | none => rfl
  | some f =>
    have hstep : step (s.givenInputs tick rnd) = .fault f :=
      (step_eq_fault_of_fetches ((State.fetches_givenInputs tick rnd).2 hi)).2
        ((s.instrCheck_givenInputs tick rnd i).trans hc)
    rw [(failingCycleChangesNothing s tick rnd).1 f hstep] at hok
    cases hok

/-- Settles O24: each timer steps from what the instruction has left in it. -/
theorem timersStepEveryTick : Obligations.TimersStepEveryTick := by
  intro s tick rnd i hi hok
  rw [hostStep_runCycle_of_fetches tick rnd hi (instrCheck_of_runCycle_ok hi hok)]
  have hdt : ((s.givenInputs tick rnd).after i).closeCycle.dt.toNat =
      if tick = true then (s.dtAfter i).toNat - 1 else (s.dtAfter i).toNat :=
    State.toNat_dt_closeCycle _
  have hst : ((s.givenInputs tick rnd).after i).closeCycle.st.toNat =
      if tick = true then (s.stAfter i).toNat - 1 else (s.stAfter i).toNat :=
    State.toNat_st_closeCycle _
  refine ⟨?dtWritten, ?stWritten, ?dtKept, ?stKept⟩
  case dtWritten =>
    rintro x rfl
    exact hdt
  case stWritten =>
    rintro x rfl
    exact hst
  case dtKept =>
    intro h
    rwa [s.dtAfter_of_ne h] at hdt
  case stKept =>
    intro h
    rwa [s.stAfter_of_ne h] at hst

end Sys2Proof.Machine
end

section
/-! PROOFS. The host's moves between two cycles: Inject key press (R132), Read framebuffer (R133), and the two moves of the
changed flag (R134). -/

namespace Sys2Proof.Machine

/-! ### Inject key press -/

/-- Writing a key flag writes the flags and nothing else. -/
theorem State.unchangedBut_setKey (s : State) (k : Fin 16) (b : Bool) : UnchangedBut [] [.keys] s (s.setKey k b) :=
  unchangedBut_of_fields (fun _ _ => rfl) (.inr rfl) (.inr rfl) (.inr rfl) (.inr rfl) (.inr rfl) (.inl (.head _))
    (.inr rfl) (.inr rfl) (.inr rfl) (.inr ⟨rfl, rfl⟩)

/-- Writing to a key flag what it is leaves the state equal (R132). -/
theorem State.setKey_keyDown_self (s : State) (k : Fin 16) : s.setKey k (s.keyDown k) = s :=
  congrArg (fun key => { s with key := key }) (Vector.set_getElem_self k.isLt)

/-- Settles O54. -/
theorem injectKeySetsOneFlag : Obligations.InjectKeySetsOneFlag := by
  refine fun s k => ⟨(s.keyDown_setKey k k true).trans (if_pos rfl),
    fun j hj => (s.keyDown_setKey k j true).trans (if_neg hj.symm), rfl, s.unchangedBut_setKey k true, fun hset => ?_⟩
  have hsame := s.setKey_keyDown_self k
  rwa [hset] at hsame

/-! ### Read framebuffer -/

/-- The cells in row-major order are the rows one after another. -/
theorem State.frameCells_eq_flatten (s : State) : s.frameCells = s.fb.flatten.toList := by
  simp [State.frameCells, Vector.flatten, Vector.toList, List.flatMap_def, Function.comp_def]

/-- The cell of column `x` and row `y` has index `x + 64 y`: its row is the quotient by 64 and its column the remainder. -/
theorem State.frameCells_getElem? (s : State) (x : Fin 64) (y : Fin 32) :
    s.frameCells[x.val + y.val * 64]? = some (s.pixel x y) := by
  have hlt : x.val + y.val * 64 < 32 * 64 := by omega
  have hrow : (x.val + y.val * 64) / 64 = y.val := by omega
  have hcol : (x.val + y.val * 64) % 64 = x.val := by omega
  rw [State.frameCells_eq_flatten, Vector.getElem?_toList, Vector.getElem?_eq_getElem hlt, Vector.getElem_flatten]
  simp only [hrow, hcol]
  rfl

/-- Settles O55. -/
theorem readFramebufferIsRowMajor : Obligations.ReadFramebufferIsRowMajor := by
  refine fun s => ⟨s.frameCells, rfl, ?_, s.frameCells_getElem?⟩
  rw [State.frameCells_eq_flatten, Vector.length_toList]

/-! ### The changed flag -/

/-- Clear changed flag writes CH and nothing else (R134). -/
theorem State.unchangedBut_clearChanged (s : State) : UnchangedBut [] [.changed] s s.clearChanged :=
  unchangedBut_of_fields (fun _ _ => rfl) (.inr rfl) (.inr rfl) (.inr rfl) (.inr rfl) (.inr rfl) (.inr rfl) (.inr rfl)
    (.inl (.head _)) (.inr rfl) (.inr ⟨rfl, rfl⟩)

/-- Load program keeps CH, whether it copies or refuses (R141). -/
theorem State.loadImage_ch (s : State) (image : List Byte) : (s.loadImage image).1.ch = s.ch := by
  unfold State.loadImage
  split <;> rfl

/-- Of the host's moves only Run one cycle raises CH (R18, R134). -/
theorem hostStep_raises_ch {s : State} {m : HostMove} (hs : s.ch = false) (h : (hostStep m s).1.ch = true) :
    ∃ tick rnd, m = .runCycle tick rnd := by
  have kept (hch : s.ch = true) : ∃ tick rnd, m = .runCycle tick rnd :=
    absurd (hs.symm.trans hch) Bool.false_ne_true
  cases m with
  | initializeAll font => cases h
  | loadProgram image => exact kept ((s.loadImage_ch image).symm.trans h)
  | runCycle tick rnd => exact ⟨tick, rnd, rfl⟩
  | injectKey k => exact kept h
  | readFramebuffer => exact kept h
  | readChanged => exact kept h
  | clearChanged => cases h

/-- Settles O56. -/
theorem changedFlagMoves : Obligations.ChangedFlagMoves :=
  fun s => ⟨rfl, ⟨rfl, rfl, s.unchangedBut_clearChanged⟩, fun _ => hostStep_raises_ch⟩

end Sys2Proof.Machine
end

section
/-! PROOFS. Initialize (R140), Load program (R141), and the first cycle of a machine that was never loaded (R142). -/

namespace Sys2Proof.Machine

/-- A block of stores writes memory and nothing else. -/
theorem State.unchangedBut_storeBytes (s : State) (a : Nat) (bs : List Byte) :
    UnchangedBut [] [.memory] s (s.storeBytes a bs) :=
  unchangedBut_of_fields (fun _ _ => rfl) (.inr rfl) (.inr rfl) (.inr rfl) (.inr rfl) (.inr rfl) (.inr rfl) (.inr rfl)
    (.inr rfl) (.inl (.head _)) (.inr ⟨rfl, rfl⟩)

/-! ### Initialize -/

/-- After Initialize memory reads as at reset with the font stored from address 0 (R140). -/
theorem State.readByte_initializeWith (s : State) (font : Vector Byte 80) (a : Nat) :
    (s.initializeWith font).readByte a = (State.reset.storeBytes 0 font.toList).readByte a :=
  rfl

/-- The font given to Initialize is in memory from address 0 (R34, R140). -/
theorem State.readByte_initializeWith_font (s : State) (font : Vector Byte 80) (a : Fin 80) :
    (s.initializeWith font).readByte a.val = font[a] := by
  have ha : a.val < font.toList.length := by simp
  have hread := State.reset.readByte_storeBytes_add 0 font.toList ha
  rw [Nat.zero_add] at hread
  rw [State.readByte_initializeWith, hread, List.getD_eq_getElem _ _ ha, Vector.getElem_toList, Fin.getElem_fin]

/-- Past the font, memory reads after Initialize as at reset (R140). -/
theorem State.readByte_initializeWith_above (s : State) (font : Vector Byte 80) {a : Nat} (ha : 0x50 ≤ a) :
    (s.initializeWith font).readByte a = State.reset.readByte a :=
  State.reset.sameBytesOutside_storeBytes 0 font.toList a (.inr (by simpa using ha))

/-- Initialize leaves the reset state but for the font and the model's own record of the host's inputs (R140; log 15). -/
theorem State.unchangedBut_initializeWith (s : State) (font : Vector Byte 80) :
    UnchangedBut [] [.memory, .given] State.reset (s.initializeWith font) :=
  unchangedBut_of_fields (fun _ _ => rfl) (.inr rfl) (.inr rfl) (.inr rfl) (.inr rfl) (.inr rfl) (.inr rfl) (.inr rfl)
    (.inr rfl) (.inl (.head _)) (.inl (.tail _ (.head _)))

/-- Settles O52: the font's bytes are those stored from address 0, and the zeros above them are the reset state's. -/
theorem initializeGivesReset : Obligations.InitializeGivesReset := by
  intro s font
  obtain ⟨-, -, -, -, -, -, -, -, -, -, -, hzeros⟩ := resetValues
  exact ⟨rfl, s.readByte_initializeWith_font font,
    fun a hlow hhigh => (s.readByte_initializeWith_above font hlow).trans (hzeros a hlow hhigh), rfl,
    s.unchangedBut_initializeWith font⟩

/-! ### Load program -/

/-- An image that is too long is refused with code 8 and its length, and nothing is written (R120, R141). -/
theorem State.loadImage_of_gt (s : State) {image : List Byte} (h : image.length > 3584) :
    s.loadImage image = (s, .failure 8 image.length) :=
  if_pos h

/-- Any other image is stored from 0x200 (R141). -/
theorem State.loadImage_of_le (s : State) {image : List Byte} (h : image.length ≤ 3584) :
    s.loadImage image = (s.storeBytes 0x200 image, .ok) :=
  if_neg (not_lt_of_ge h)

/-- Settles O53: too long an image is refused, and any other is a block of stores at 0x200. -/
theorem loadProgramCopies : Obligations.LoadProgramCopies := by
  refine fun s image => ⟨s.loadImage_of_gt, fun hlen => ?_⟩
  simp only [hostStep, s.loadImage_of_le hlen]
  refine ⟨trivial, fun k hk => ?_, s.sameBytesOutside_storeBytes 0x200 image, rfl, s.unchangedBut_storeBytes 0x200 image⟩
  rw [State.readByte_storeBytes_add s 0x200 image hk, List.getD_eq_getElem _ _ hk]

/-! ### A machine that was never loaded -/

/-- The word 0 is no instruction (R57). -/
theorem decodeWord_zero_ne_ok (i : Instr) : decodeWord 0 ≠ .ok i :=
  nofun

/-- Where no program was loaded, the word at PC is 0 (R142). -/
theorem State.fetchWord_reset : State.reset.fetchWord = 0 := by
  obtain ⟨-, -, -, -, -, -, -, -, -, -, -, hzeros⟩ := resetValues
  have hhigh := hzeros State.reset.pc.toNat (by decide) (by decide)
  have hlow := hzeros (State.reset.pc.toNat + 1) (by decide) (by decide)
  rw [State.fetchWord, hhigh, hlow]
  rfl

/-- The cycle at the reset state faults on the word 0 (R57, R142). -/
theorem step_reset : step State.reset = .fault (.illegalInstruction 0) := by
  have h := step_of_illegal_word (s := State.reset) (State.fetchCheck_eq_none.2 (by decide))
  rw [State.fetchWord_reset] at h
  exact h decodeWord_zero_ne_ok

/-- Settles O57: the fault of the reset state is raised with any inputs, and a failing cycle changes nothing. -/
theorem unloadedMachineFaults : Obligations.UnloadedMachineFaults := by
  intro tick rnd
  have hstep : step (State.reset.givenInputs tick rnd) = .fault (.illegalInstruction 0) :=
    faultIgnoresInputs State.reset _ [{ tick := tick, rnd := rnd }] 0 step_reset
  exact (failingCycleChangesNothing State.reset tick rnd).1 _ hstep

end Sys2Proof.Machine
end
